-- ==== Sys2Proof/Word.lean ====
section
/-! DEFINITION. The word types of HUFCORE and the vocabulary of a bus access (spec 00_scope.md R6 to R10, 20_memory.md R62). -/

namespace Sys2Proof

/-- A register of the window, a count or a weight: REG_W = CNT_W = 32 bits (R6). -/
abbrev Word := BitVec 32

/-- One packed byte (R10, PackedByteStream). -/
abbrev Byte := BitVec 8

/-- "one byte value (0–255)" (R10). -/
abbrev Symbol := BitVec 8

/-- A node index: IDX_W = 9 bits (R6). -/
abbrev NodeIndex := BitVec 9

/-- The bits of one code, first bit at bit 0: MAX_CODE_LEN = 255 bits (R6, R8). -/
abbrev CodeBits := BitVec 255

/-- A code length: LEN_W = 8 bits, 0 for "no entry" (R6, R44). -/
abbrev CodeLen := BitVec 8

/-- The 32-bit chunk number of a code register, 0 to 7 (R92). -/
abbrev ChunkIndex := BitVec 3

/-- A byte offset in the 256-byte register window (R60). -/
abbrev Offset := BitVec 8

/-- The width of one host access.  Only `word` is an access the core acts on (R62). -/
inductive AccessSize where
  | byte
  | half
  | word
  deriving DecidableEq, Repr

/-- MAX_TOTAL = 2^32 − 1, the largest TOTAL (R6). -/
def maxTotal : Nat := 2 ^ 32 - 1

/-- NODE_MAX, the size of the node arena (R6). -/
def nodeMax : Nat := 511

/-- MAX_CODE_LEN, the longest code and the candidate register's length (R6). -/
def maxCodeLen : Nat := 255

/-- The value of the ID register (R6, R24): ASCII "HUF", then the command set's version 1. -/
def idValue : Word := 0x48554601#32

end Sys2Proof
end

