-- ==== Sys2Proof/Syntax.lean ====
section
/-! DEFINITION. The 23 commands of HUFCORE (30_encoding.md R93), one constructor per row of spec/opcode_table.json.
Operands stand in the order of the assembler syntax of R101. -/

namespace Sys2Proof

/-- One HUFCORE command with its operands (R91, R92). -/
inductive Instr where
  /-- NOP (R120) -/
  | nop
  /-- SOFT_RESET (R121) -/
  | softReset
  /-- CLR_ERR (R122) -/
  | clrErr
  /-- FC_CLEAR (R130) -/
  | fcClear
  /-- FC_COUNT SYM (R131) -/
  | fcCount (sym : Symbol)
  /-- FC_SET SYM, the count in ARG (R132) -/
  | fcSet (sym : Symbol)
  /-- FC_READ SYM (R133) -/
  | fcRead (sym : Symbol)
  /-- TB_BUILD (R150) -/
  | tbBuild
  /-- TB_READW IDX (R156) -/
  | tbReadw (idx : NodeIndex)
  /-- TB_READN IDX (R157) -/
  | tbReadn (idx : NodeIndex)
  /-- CA_ASSIGN (R170) -/
  | caAssign
  /-- CT_CLEAR (R173) -/
  | ctClear
  /-- CT_SETLEN SYM, LEN (R174) -/
  | ctSetlen (sym : Symbol) (len : CodeLen)
  /-- CT_SETBITS SYM, CHUNK, the bits in ARG (R175) -/
  | ctSetbits (sym : Symbol) (chunk : ChunkIndex)
  /-- CT_VALIDATE (R176) -/
  | ctValidate
  /-- CT_READLEN SYM (R178) -/
  | ctReadlen (sym : Symbol)
  /-- CT_READBITS SYM, CHUNK (R179) -/
  | ctReadbits (sym : Symbol) (chunk : ChunkIndex)
  /-- EN_START (R200) -/
  | enStart
  /-- EN_SYM SYM (R201) -/
  | enSym (sym : Symbol)
  /-- EN_FLUSH (R202) -/
  | enFlush
  /-- DE_START, OriginalLength in ARG (R220) -/
  | deStart
  /-- DE_BYTE SYM, the packed byte (R221) -/
  | deByte (byte : Byte)
  /-- DE_END (R222) -/
  | deEnd
  deriving DecidableEq, Repr

end Sys2Proof
end

