-- ==== Sys2Proof/WellFormed.lean ====
section
/-! DEFINITION. Well-formedness: the operand ranges of a command (30_encoding.md R92) and the form of a host access
(20_memory.md R62).  The operand widths are in the types of `Instr`, so every term of `Instr` is well-formed; the two
checks a term can fail are those of an access. -/

namespace Sys2Proof

/-- Every operand lies in its field's range (R92): SYM 0 to 255, IDX 0 to 511, LEN 0 to 255, CHUNK 0 to 7. -/
def Instr.wf : Instr → Bool
  | .nop | .softReset | .clrErr | .fcClear | .tbBuild | .caAssign | .ctClear | .ctValidate | .enStart | .enFlush
  | .deStart | .deEnd => true
  | .fcCount sym | .fcSet sym | .fcRead sym | .ctReadlen sym | .enSym sym => sym.toNat ≤ 255
  | .deByte byte => byte.toNat ≤ 255
  | .tbReadw idx | .tbReadn idx => idx.toNat ≤ 511
  | .ctSetlen sym len => sym.toNat ≤ 255 && len.toNat ≤ 255
  | .ctSetbits sym chunk | .ctReadbits sym chunk => sym.toNat ≤ 255 && chunk.toNat ≤ 7

/-- "Every register access is a full 32-bit access at an offset that is a multiple of 4" (R62): the width check, then the
alignment check. -/
def accessWf (size : AccessSize) (off : Offset) : Bool :=
  size == .word && off.toNat % 4 == 0

end Sys2Proof
end

