-- ==== Sys2Proof/Decode.lean ====
section
/-! DEFINITION. Decoding a command word, total and rejecting by name (30_encoding.md R90 to R95), the byte lanes of a word
(20_memory.md R63), and the encoder from the same table (R91, R93). -/

namespace Sys2Proof

/-- The five command formats (R91). -/
inductive Format where
  | N
  | S
  | I
  | SL
  | SC
  deriving DecidableEq, Repr

/-- RSV: bit i is 1 iff bit i is a reserved field of the format (R91). -/
def Format.rsv : Format → Word
  | .N => 0x00FFFFFF#32
  | .S => 0x00FFFF00#32
  | .I => 0x00FFFE00#32
  | .SL => 0x00FF0000#32
  | .SC => 0x00FFF800#32

/-- Why a command word selects no command; both names raise ILLEGAL_CMD when the word is issued (R94, R95, R97). -/
inductive DecodeError where
  /-- OP is none of the 23 opcodes of R93 (R94). -/
  | unassignedOpcode
  /-- OP is assigned and a reserved bit of its format is 1 (R95). -/
  | reservedBitSet
  /-- Fewer than the four bytes of a command word (R90, R100: every command has 32 bits). -/
  | shortInput
  deriving DecidableEq, Repr

/-- What the decoder reads from a word: a command, or a rejection by name. -/
inductive Decoded where
  | instr (i : Instr)
  | rejected (e : DecodeError)
  deriving DecidableEq, Repr

/-- OP = w[31:24] (R90). -/
def opField (w : Word) : BitVec 8 := w.extractLsb' 24 8
/-- SYM = w[7:0] (R92). -/
def symField (w : Word) : Symbol := w.extractLsb' 0 8
/-- IDX = w[8:0] (R92). -/
def idxField (w : Word) : NodeIndex := w.extractLsb' 0 9
/-- LEN = w[15:8] (R92). -/
def lenField (w : Word) : CodeLen := w.extractLsb' 8 8
/-- CHUNK = w[10:8] (R92). -/
def chunkField (w : Word) : ChunkIndex := w.extractLsb' 8 3

/-- The reserved-bit check of R95, then the command. -/
def decodeAs (f : Format) (w : Word) (i : Instr) : Decoded :=
  if w &&& f.rsv = 0#32 then .instr i else .rejected .reservedBitSet

/-- The opcode map of R93: the command that the word w selects, or the name of its rejection (R94, R95). -/
def decode (w : Word) : Decoded :=
  match (opField w).toNat with
  | 0x00 => decodeAs .N w .nop
  | 0x01 => decodeAs .N w .softReset
  | 0x02 => decodeAs .N w .clrErr
  | 0x10 => decodeAs .N w .fcClear
  | 0x11 => decodeAs .S w (.fcCount (symField w))
  | 0x12 => decodeAs .S w (.fcSet (symField w))
  | 0x13 => decodeAs .S w (.fcRead (symField w))
  | 0x20 => decodeAs .N w .tbBuild
  | 0x21 => decodeAs .I w (.tbReadw (idxField w))
  | 0x22 => decodeAs .I w (.tbReadn (idxField w))
  | 0x30 => decodeAs .N w .caAssign
  | 0x31 => decodeAs .N w .ctClear
  | 0x32 => decodeAs .SL w (.ctSetlen (symField w) (lenField w))
  | 0x33 => decodeAs .SC w (.ctSetbits (symField w) (chunkField w))
  | 0x34 => decodeAs .N w .ctValidate
  | 0x35 => decodeAs .S w (.ctReadlen (symField w))
  | 0x36 => decodeAs .SC w (.ctReadbits (symField w) (chunkField w))
  | 0x40 => decodeAs .N w .enStart
  | 0x41 => decodeAs .S w (.enSym (symField w))
  | 0x42 => decodeAs .N w .enFlush
  | 0x50 => decodeAs .N w .deStart
  | 0x51 => decodeAs .S w (.deByte (symField w))
  | 0x52 => decodeAs .N w .deEnd
  | _ => .rejected .unassignedOpcode

/-- The byte at offset off + k of a register holding w: bits [8k+7:8k] (R63, little-endian lanes). -/
def byteLane (w : Word) (k : Nat) : Byte := w.extractLsb' (8 * k) 8

/-- A word as a byte-addressed bus sees it, lowest address first (R63). -/
def wordBytes (w : Word) : List Byte := [byteLane w 0, byteLane w 1, byteLane w 2, byteLane w 3]

/-- The word whose lanes 0 to 3 are the four bytes (R63). -/
def wordOfBytes (b0 b1 b2 b3 : Byte) : Word := b3 ++ b2 ++ b1 ++ b0

/-- One command from the front of a byte sequence: the command and the rest, or the name of the rejection. -/
def decodeBytes : List Byte → Except DecodeError (Instr × List Byte)
  | b0 :: b1 :: b2 :: b3 :: rest =>
    match decode (wordOfBytes b0 b1 b2 b3) with
    | .instr i => .ok (i, rest)
    | .rejected e => .error e
  | _ => .error .shortInput

/-- The host's question: the command the decoder reads from the first `nbits` bits of w, laid out in bytes (R63). -/
def decodeTableWord (nbits w : Nat) : Option Instr :=
  match decodeBytes (wordBytes (BitVec.ofNat 32 (w % 2 ^ nbits))) with
  | .ok (i, _) => some i
  | .error _ => none

/-- The format of a command (R93). -/
def Instr.format : Instr → Format
  | .nop | .softReset | .clrErr | .fcClear | .tbBuild | .caAssign | .ctClear | .ctValidate | .enStart | .enFlush
  | .deStart | .deEnd => .N
  | .fcCount _ | .fcSet _ | .fcRead _ | .ctReadlen _ | .enSym _ | .deByte _ => .S
  | .tbReadw _ | .tbReadn _ => .I
  | .ctSetlen _ _ => .SL
  | .ctSetbits _ _ | .ctReadbits _ _ => .SC

/-- The opcode of a command (R93). -/
def Instr.opcode : Instr → BitVec 8
  | .nop => 0x00#8
  | .softReset => 0x01#8
  | .clrErr => 0x02#8
  | .fcClear => 0x10#8
  | .fcCount _ => 0x11#8
  | .fcSet _ => 0x12#8
  | .fcRead _ => 0x13#8
  | .tbBuild => 0x20#8
  | .tbReadw _ => 0x21#8
  | .tbReadn _ => 0x22#8
  | .caAssign => 0x30#8
  | .ctClear => 0x31#8
  | .ctSetlen _ _ => 0x32#8
  | .ctSetbits _ _ => 0x33#8
  | .ctValidate => 0x34#8
  | .ctReadlen _ => 0x35#8
  | .ctReadbits _ _ => 0x36#8
  | .enStart => 0x40#8
  | .enSym _ => 0x41#8
  | .enFlush => 0x42#8
  | .deStart => 0x50#8
  | .deByte _ => 0x51#8
  | .deEnd => 0x52#8

/-- w[23:0]: the operands in their fields and 0 in every reserved field (R91). -/
def Instr.payload : Instr → BitVec 24
  | .nop | .softReset | .clrErr | .fcClear | .tbBuild | .caAssign | .ctClear | .ctValidate | .enStart | .enFlush
  | .deStart | .deEnd => 0#24
  | .fcCount sym | .fcSet sym | .fcRead sym | .ctReadlen sym | .enSym sym => 0#16 ++ sym
  | .deByte byte => 0#16 ++ byte
  | .tbReadw idx | .tbReadn idx => 0#15 ++ idx
  | .ctSetlen sym len => 0#8 ++ len ++ sym
  | .ctSetbits sym chunk | .ctReadbits sym chunk => 0#13 ++ chunk ++ sym

/-- The command word of a command, "assembled by rule R91 with every reserved field 0" (R101). -/
def encode (i : Instr) : Word := i.opcode ++ i.payload

/-- mask = 0xFF000000 | RSV of a command's row (R93). -/
def Instr.rowMask (i : Instr) : Word := 0xFF000000#32 ||| i.format.rsv

/-- match = OP << 24 of a command's row (R93). -/
def Instr.rowMatch (i : Instr) : Word := i.opcode ++ 0#24

/-- The gate column of R93: whether the command is discarded while an error is recorded (R98). -/
def Instr.isGated : Instr → Bool
  | .nop | .softReset | .clrErr | .fcRead _ | .tbReadw _ | .tbReadn _ | .ctReadlen _ | .ctReadbits _ _ => false
  | .fcClear | .fcCount _ | .fcSet _ | .tbBuild | .caAssign | .ctClear | .ctSetlen _ _ | .ctSetbits _ _ | .ctValidate
  | .enStart | .enSym _ | .enFlush | .deStart | .deByte _ | .deEnd => true

end Sys2Proof
end

