-- ==== Sys2Proof/Config.lean ====
section
/-! DEFINITION. The OPEN parameters of HUFCORE (00_scope.md R6, 92_eei_decisions.md D13): what one implementation fixes.
HUFCORE_BASE, the third open parameter, "does not enter the model, which uses offsets only" (R68). -/

namespace Sys2Proof

/-- The FIFO depths, each only ever a value of its range (R6).  A value of this type is the "argument of the model" of R6;
`State` carries it unchanged, so a statement about every state is a statement about every legal pair of depths
(notes/assumptions/1.md). -/
structure Config where
  /-- PK_DEPTH: the capacity of PKQ in bytes. -/
  pkDepth : { n : Nat // 32 ≤ n ∧ n ≤ 127 }
  /-- DK_DEPTH: the capacity of DKQ in symbols. -/
  dkDepth : { n : Nat // 8 ≤ n ∧ n ≤ 31 }
  deriving DecidableEq, Repr

/-- The reference configuration of R6, which "fixes it for the test vectors". -/
def Config.reference : Config where
  pkDepth := ⟨64, by decide⟩
  dkDepth := ⟨16, by decide⟩

end Sys2Proof
end

