-- ==== Sys2Proof/Machine/State.lean ====
section
/-! DEFINITION. The state of one HUFCORE instance (10_state.md R20 to R52), grouped by the spec's units, with the model's
own host port beside it (the accesses the host has still to issue and the values its reads returned), and the state after
reset (R52, 70_reset_and_hazards.md R281). -/

namespace Sys2Proof.Machine

/-- An internal array A[0..n-1] (R9), its entries from index 0 on. -/
structure Arr (α : Type) (n : Nat) where
  toList : List α
  length_toList : toList.length = n
  deriving DecidableEq, Repr

/-- The array of n equal entries. -/
def Arr.replicate {α : Type} (n : Nat) (a : α) : Arr α n := ⟨List.replicate n a, List.length_replicate⟩

/-- The causes of R251.  "The values 0x09 to 0xFF are never written", so the type holds the nine values of that table
(93_implementation_defined.md I13). -/
inductive ErrCause where
  | noError
  | illegalCmd
  | sequence
  | lenOverflow
  | missingCode
  | invalidTable
  | truncated
  | candOverflow
  | fifoOverflow
  deriving DecidableEq, Repr

/-- KIND of a node: 0 = leaf, 1 = internal (R42). -/
inductive NodeKind where
  | leaf
  | internal
  deriving DecidableEq, Repr

/-- One entry of the node arena (R42). -/
structure Node where
  kind : NodeKind
  weight : Word
  symbol : Symbol
  left : NodeIndex
  right : NodeIndex
  deriving DecidableEq, Repr

/-- The all-zero entry (R42, R150). -/
def Node.zero : Node := { kind := .leaf, weight := 0, symbol := 0, left := 0, right := 0 }

/-- FREQ and TOTAL (R40). -/
structure FreqCounter where
  /-- FREQ[0..255], 32 bits each -/
  freq : Arr Word 256
  /-- TOTAL, 32 bits -/
  total : Word
  deriving DecidableEq, Repr

/-- The node arena and the tree descriptors (R42, R43). -/
structure TreeBuilder where
  /-- NODE[0..510] -/
  node : Arr Node 511
  /-- NODE_COUNT, 10 bits -/
  nodeCount : BitVec 10
  /-- ROOT, 9 bits -/
  root : NodeIndex
  /-- ROOT_VALID -/
  rootValid : Bool
  /-- TREE_VALID -/
  treeValid : Bool
  deriving DecidableEq, Repr

/-- CODE_LEN[s] and CODE_BITS[s] of one symbol s (R44). -/
structure CodeEntry where
  len : CodeLen
  bits : CodeBits
  deriving DecidableEq, Repr

/-- CODE_LEN[0..255] and CODE_BITS[0..255] (R44). -/
abbrev CodeTable := Arr CodeEntry 256

/-- "CODE_LEN[s] = 0 means s has no entry" (R44), with CODE_BITS[s] = 0. -/
def CodeEntry.absent : CodeEntry := { len := 0, bits := 0 }

/-- The packer (R47). -/
structure Packer where
  /-- ENC_ACTIVE -/
  active : Bool
  /-- ACC: bit j is the j-th pending bit -/
  acc : Byte
  /-- ACC_LEN, 0 to 7 -/
  accLen : BitVec 3
  /-- PKQ, head first -/
  pkq : List Byte
  deriving DecidableEq, Repr

/-- The values of DSTATE (R48). -/
inductive DState where
  | idle
  | accumulating
  | done
  | failed
  deriving DecidableEq, Repr

/-- The unpacker (R48). -/
structure Unpacker where
  /-- DSTATE -/
  dstate : DState
  /-- CAND: bit i is the i-th bit appended -/
  cand : CodeBits
  /-- CAND_LEN, 0 to 255 -/
  candLen : BitVec 8
  /-- DEC_COUNT -/
  decCount : Word
  /-- DEC_TARGET -/
  decTarget : Word
  /-- DKQ, head first -/
  dkq : List Symbol
  deriving DecidableEq, Repr

/-- The host's three actions on the core (R61), each access with its width so that the accesses R62 ignores are covered. -/
inductive HostAction where
  /-- MemWrite(off, size, v) -/
  | write (off : Offset) (size : AccessSize) (v : Word)
  /-- MemRead(off, size) -/
  | read (off : Offset) (size : AccessSize)
  /-- Reset: the reset input -/
  | reset
  deriving DecidableEq, Repr

/-- The complete state: R52's record, the fixed parameters of R6, and the host port (`pending`, `responses`), which is the
model's own (notes/assumptions/1.md, 2.md, 3.md). -/
structure State where
  /-- The FIFO depths; no step changes them. -/
  config : Config
  /-- ARG (R26) -/
  arg : Word
  /-- RESULT (R29) -/
  result : Word
  /-- ERRCAUSE (R28) -/
  errcause : ErrCause
  /-- BUSY (R50) -/
  busy : Bool
  /-- FREQ, TOTAL -/
  fc : FreqCounter
  /-- NODE, NODE_COUNT, ROOT, ROOT_VALID, TREE_VALID -/
  tree : TreeBuilder
  /-- CODE_LEN, CODE_BITS -/
  table : CodeTable
  /-- TABLE_VALID (R45) -/
  tableValid : Bool
  /-- ENC_ACTIVE, ACC, ACC_LEN, PKQ -/
  packer : Packer
  /-- DSTATE, CAND, CAND_LEN, DEC_COUNT, DEC_TARGET, DKQ -/
  unpacker : Unpacker
  /-- The host's accesses not yet performed, in issue order (R70). -/
  pending : List HostAction
  /-- The values the host's reads have returned, oldest first (R61). -/
  responses : List Word
  deriving DecidableEq, Repr

/-- Why the machine stops with a fault: never.  HUFCORE "has no traps" (60_exceptions.md); an error is recorded in ERRCAUSE
and the machine goes on, so the type has no constructor and nobody raises a fault.  Safe: no step is cut short. -/
inductive Fault
  deriving DecidableEq, Repr

/-- Why an instruction has no meaning. -/
inductive Refusal where
  /-- Raised by an arm of `exec` whose instruction has no meaning yet; the mnemonic as spec/opcode_table.json spells it.
  No arm raises it now.  Safe: the machine stops. -/
  | notModelled (mnemonic : String)
  deriving DecidableEq, Repr

/-- ResetState (R281, R52) for an implementation with the given parameters, with nothing pending at the host port. -/
def State.resetWith (config : Config) : State where
  config := config
  arg := 0
  result := 0
  errcause := .noError
  busy := false
  fc := { freq := Arr.replicate 256 0, total := 0 }
  tree := { node := Arr.replicate 511 Node.zero, nodeCount := 0, root := 0, rootValid := false, treeValid := false }
  table := Arr.replicate 256 CodeEntry.absent
  tableValid := false
  packer := { active := false, acc := 0, accLen := 0, pkq := [] }
  unpacker := { dstate := .idle, cand := 0, candLen := 0, decCount := 0, decTarget := 0, dkq := [] }
  pending := []
  responses := []

/-- The machine right after reset, at the reference configuration of R6. -/
def State.reset : State := State.resetWith Config.reference

end Sys2Proof.Machine
end

