-- ==== Sys2Proof/Machine/Operands.lean ====
section
/-! DEFINITION. Operand forms: the arrays indexed by a symbol or a node index, the 32-bit chunks of a code register (R92,
R175, R179), single bits, and the low bits of a code (00_scope.md R7, R8). -/

namespace Sys2Proof.Machine

/-- A[s] for an array with one entry per symbol (R9). -/
def readSym {α : Type} (v : Arr α 256) (s : Symbol) : α := v.toList[s.toNat]'(v.length_toList.symm ▸ s.isLt)

/-- A[s] <- x for an array with one entry per symbol (R9). -/
def writeSym {α : Type} (v : Arr α 256) (s : Symbol) (x : α) : Arr α 256 :=
  ⟨v.toList.set s.toNat x, List.length_set.trans v.length_toList⟩

/-- NODE[i]; an index past the arena (511) reads as the all-zero entry (R92: it "reads as out of range"). -/
def readNode (v : Arr Node 511) (i : NodeIndex) : Node := v.toList[i.toNat]?.getD Node.zero

/-- The 256 symbols in ascending order. -/
def allSymbols : List Symbol := (List.range 256).map (BitVec.ofNat 8)

/-- The value of a flag as one bit. -/
def flag (b : Bool) : BitVec 1 := BitVec.ofBool b

/-- v with bit i set to b. -/
def setBit {w : Nat} (v : BitVec w) (i : Nat) (b : Bool) : BitVec w :=
  if b then v ||| (1#w <<< i) else v &&& ~~~(1#w <<< i)

/-- v[L-1:0] as a number (R7): the first L bits of a code (R8). -/
def lowBits (L : Nat) (v : CodeBits) : Nat := v.toNat % 2 ^ L

/-- Chunk k of a code register: bits [32k+31:32k].  A code register has no bit 255, so bit 31 of chunk 7 reads 0 (R179). -/
def readChunk (v : CodeBits) (k : ChunkIndex) : Word := v.extractLsb' (32 * k.toNat) 32

/-- v with chunk k replaced by x.  A code register has no bit 255, so x[31] is dropped for chunk 7 (R175). -/
def writeChunk (v : CodeBits) (k : ChunkIndex) (x : Word) : CodeBits :=
  (v &&& ~~~(0xFFFFFFFF#255 <<< (32 * k.toNat))) ||| (x.setWidth 255 <<< (32 * k.toNat))

/-- The eight bits of a packed byte in stream order, least significant first (20_memory.md R64). -/
def byteBits (b : Byte) : List Bool := (List.range 8).map b.getLsbD

/-- The bits c_0 ... c_{L−1} of the code held in an entry (R8); empty for an absent entry. -/
def CodeEntry.code (e : CodeEntry) : List Bool := (List.range e.len.toNat).map e.bits.getLsbD

end Sys2Proof.Machine
end

