-- ==== Sys2Proof/Machine/Flags.lean ====
section
/-! DEFINITION. The coded views: cause codes (60_exceptions.md R251), DSTATE's code and the STATUS, ENC_INFO, DEC_INFO and
TREE_INFO registers (10_state.md R27, R35 to R37), none of which stores anything of its own. -/

namespace Sys2Proof.Machine

/-- code(E) of R251. -/
def ErrCause.code : ErrCause → BitVec 8
  | .noError => 0x00#8
  | .illegalCmd => 0x01#8
  | .sequence => 0x02#8
  | .lenOverflow => 0x03#8
  | .missingCode => 0x04#8
  | .invalidTable => 0x05#8
  | .truncated => 0x06#8
  | .candOverflow => 0x07#8
  | .fifoOverflow => 0x08#8

/-- STATUS[6:5] (R27). -/
def DState.code : DState → BitVec 2
  | .idle => 0b00#2
  | .accumulating => 0b01#2
  | .done => 0b10#2
  | .failed => 0b11#2

/-- STATUS.ERR: "1 iff ERRCAUSE ≠ 0" (R27). -/
def State.errFlag (s : State) : Bool := s.errcause ≠ .noError

/-- The STATUS register (R27), fields from bit 31 down: reserved, DK_COUNT, reserved, PK_COUNT, reserved, DSTATE,
ENC_ACTIVE, TABLE_VALID, TREE_VALID, ERR, BUSY. -/
def State.status (s : State) : Word :=
  0#3 ++ BitVec.ofNat 5 s.unpacker.dkq.length ++ 0#1 ++ BitVec.ofNat 7 s.packer.pkq.length ++ 0#9 ++
    s.unpacker.dstate.code ++ flag s.packer.active ++ flag s.tableValid ++ flag s.tree.treeValid ++ flag s.errFlag ++
    flag s.busy

/-- The ERRCAUSE register (R28). -/
def State.errcauseWord (s : State) : Word := 0#24 ++ s.errcause.code

/-- The ENC_INFO register (R35). -/
def State.encInfo (s : State) : Word := 0#21 ++ s.packer.accLen ++ s.packer.acc

/-- The DEC_INFO register (R36). -/
def State.decInfo (s : State) : Word := 0#24 ++ s.unpacker.candLen

/-- The TREE_INFO register (R37). -/
def State.treeInfo (s : State) : Word := flag s.tree.rootValid ++ 0#6 ++ s.tree.root ++ 0#6 ++ s.tree.nodeCount

end Sys2Proof.Machine
end

