-- ==== Sys2Proof/Machine/Ops.lean ====
section
/-! DEFINITION. The operations the commands share: raising an error and returning from one (60_exceptions.md R252, R255,
R257), the error gate (30_encoding.md R98), the session guard (43_code_table.md R181), ResetState (70_reset_and_hazards.md
R281) and the FIFO pops behind PK_OUT and DK_OUT (10_state.md R30, R31). -/

namespace Sys2Proof.Machine

/-- What a command answers. -/
abbrev Result := Host.Outcome State Fault Refusal

/-- `raise E` (R252), HUFCORE's whole error entry: the first cause is recorded and kept, nothing else is saved and control
is not transferred (R254).  The caller answers with the state this gives, so no later line of its rule runs. -/
def State.raise (e : ErrCause) (s : State) : State :=
  if s.errcause = .noError then { s with errcause := e } else s

/-- The return from an error (R122, R257): ERRCAUSE <- 0 and no other state restored. -/
def State.clearError (s : State) : State := { s with errcause := .noError }

/-- AbortEncode (R201). -/
def State.abortEncode (s : State) : State := { s with packer := { active := false, acc := 0, accLen := 0, pkq := [] } }

/-- AbortDecode (R223). -/
def State.abortDecode (s : State) : State := { s with unpacker := { s.unpacker with dstate := .failed, dkq := [] } }

/-- The gate of R97 and R98 before a gated command's own rule: while an error is recorded the command is discarded. -/
def State.gated (s : State) (body : State → Result) : Result :=
  if s.errcause = .noError then body s else .next s

/-- An encode session or an ACCUMULATING decode session is open (R181). -/
def State.sessionActive (s : State) : Bool := s.packer.active || s.unpacker.dstate == .accumulating

/-- SessionGuard() (R181), then the rest of a table-writing command. -/
def State.guarded (s : State) (body : State → Result) : Result :=
  if s.sessionActive then .next (s.raise .sequence) else body s

/-- RESULT <- v: what a query command does (R29). -/
def State.setResult (v : Word) (s : State) : State := { s with result := v }

/-- ResetState() (R281).  The parameters are the implementation's and the port is the host's, so both stay. -/
def State.resetState (s : State) : State :=
  { State.resetWith s.config with pending := s.pending, responses := s.responses }

/-- `{23'b0, 1'b1, b}`: a popped entry as PK_OUT and DK_OUT return it (R30, R31). -/
def validEntry (b : Byte) : Word := 0#23 ++ 1#1 ++ b

/-- A read of PK_OUT (R30). -/
def State.popPk (s : State) : Word × State :=
  match s.packer.pkq with
  | [] => (0#32, s)
  | b :: rest => (validEntry b, { s with packer := { s.packer with pkq := rest } })

/-- A read of DK_OUT (R31). -/
def State.popDk (s : State) : Word × State :=
  match s.unpacker.dkq with
  | [] => (0#32, s)
  | b :: rest => (validEntry b, { s with unpacker := { s.unpacker with dkq := rest } })

end Sys2Proof.Machine
end

