-- ==== Sys2Proof/Machine/CodeTable.lean ====
section
/-! DEFINITION. Code assigner and code-table commands (43_code_table.md R170 to R182). -/

namespace Sys2Proof.Machine

/-- The table with no entry (R172, R173). -/
def CodeTable.empty : CodeTable := Arr.replicate 256 CodeEntry.absent

/-- code(a) is a prefix of code(b): |a| ≤ |b| and the first |a| bits agree (R8, R177). -/
def CodeEntry.isPrefixOf (a b : CodeEntry) : Bool :=
  a.len.toNat ≤ b.len.toNat && lowBits a.len.toNat a.bits == lowBits a.len.toNat b.bits

/-- The set E of R177: the symbols that have an entry, each with its entry, in ascending order. -/
def CodeTable.entries (t : CodeTable) : List (Symbol × CodeEntry) :=
  (allSymbols.zip t.toList).filter fun p => p.2.len ≠ 0

/-- Valid() (R177): no code is a prefix of the code of another symbol. -/
def CodeTable.valid (t : CodeTable) : Bool :=
  let es := t.entries
  es.all fun a => es.all fun b => a.1 == b.1 || !a.2.isPrefixOf b.2

/-- The entry matches the candidate c of length L (R180). -/
def CodeEntry.isCode (e : CodeEntry) (L : Nat) (c : CodeBits) : Bool :=
  e.len.toNat == L && lowBits L e.bits == lowBits L c

/-- Lookup(L, c) (R180): the least symbol whose code is the first L bits of c; `none` is found = 0. -/
def CodeTable.lookup (t : CodeTable) (L : Nat) (c : CodeBits) : Option Symbol :=
  ((allSymbols.zip t.toList).find? fun p => p.2.isCode L c).map (·.1)

/-- Assign(i, L, c) (R171), with fuel for the depth: a leaf at depth L gets the code c_0 ... c_{L−1}; LEFT appends 0 and
RIGHT appends 1. -/
def assignCodes (node : Arr Node 511) : Nat → NodeIndex → Nat → CodeBits → CodeTable → CodeTable
  | 0, _, _, _, t => t
  | fuel + 1, i, L, c, t =>
    let n := readNode node i
    match n.kind with
    | .leaf => writeSym t n.symbol { len := BitVec.ofNat 8 L, bits := c }
    | .internal =>
      assignCodes node fuel n.right (L + 1) (c ||| (1#255 <<< L)) (assignCodes node fuel n.left (L + 1) c t)

/-- The table CA_ASSIGN writes (R170, R172): all absent for no tree, the code "0" for a single leaf, else the walk.  A tree
has at most 256 levels (R158), which is the fuel. -/
def TreeBuilder.codes (tr : TreeBuilder) : CodeTable :=
  if tr.rootValid then
    let r := readNode tr.node tr.root
    match r.kind with
    | .leaf => writeSym CodeTable.empty r.symbol { len := 1, bits := 0 }
    | .internal => assignCodes tr.node 256 tr.root 0 0 CodeTable.empty
  else CodeTable.empty

/-- Build the inverse (R46): TABLE_VALID <- 1 if Valid(), else TABLE_VALID <- 0 and raise INVALID_TABLE (R170, R176). -/
def State.validateTable (s : State) : State :=
  if s.table.valid then { s with tableValid := true } else { s with tableValid := false }.raise .invalidTable

/-- A write of one entry of the table, which makes it unvalidated (R45). -/
def State.setEntry (sym : Symbol) (e : CodeEntry) (s : State) : State :=
  { s with table := writeSym s.table sym e, tableValid := false }

/-- The entry of a symbol. -/
def State.entryOf (s : State) (sym : Symbol) : CodeEntry := readSym s.table sym

/-- CA_ASSIGN (R170). -/
def execCaAssign (s : State) : Result :=
  s.gated fun s => s.guarded fun s =>
    if s.tree.treeValid then .next { s with table := s.tree.codes }.validateTable
    else .next (s.raise .sequence)

/-- CT_CLEAR (R173). -/
def execCtClear (s : State) : Result :=
  s.gated fun s => s.guarded fun s => .next { s with table := CodeTable.empty, tableValid := false }

/-- CT_SETLEN (R174): CODE_BITS[SYM] is kept. -/
def execCtSetlen (sym : Symbol) (len : CodeLen) (s : State) : Result :=
  s.gated fun s => s.guarded fun s => .next (s.setEntry sym { s.entryOf sym with len := len })

/-- CT_SETBITS (R175): 32 bits of CODE_BITS[SYM] from ARG; CODE_LEN[SYM] is kept. -/
def execCtSetbits (sym : Symbol) (chunk : ChunkIndex) (s : State) : Result :=
  s.gated fun s => s.guarded fun s =>
    .next (s.setEntry sym { s.entryOf sym with bits := writeChunk (s.entryOf sym).bits chunk s.arg })

/-- CT_VALIDATE (R176). -/
def execCtValidate (s : State) : Result := s.gated fun s => s.guarded fun s => .next s.validateTable

/-- CT_READLEN (R178). -/
def execCtReadlen (sym : Symbol) (s : State) : Result := .next (s.setResult ((s.entryOf sym).len.setWidth 32))

/-- CT_READBITS (R179). -/
def execCtReadbits (sym : Symbol) (chunk : ChunkIndex) (s : State) : Result :=
  .next (s.setResult (readChunk (s.entryOf sym).bits chunk))

end Sys2Proof.Machine
end

