-- ==== Sys2Proof/Machine/BitPacker.lean ====
section
/-! DEFINITION. Bit packer commands (44_bit_packer.md R200 to R204). -/

namespace Sys2Proof.Machine

/-- AppendBit(b) (R203). -/
def Packer.appendBit (p : Packer) (b : Bool) : Packer :=
  let acc := setBit p.acc p.accLen.toNat b
  let k := p.accLen.toNat + 1
  if k = 8 then { p with acc := 0, accLen := 0, pkq := p.pkq ++ [acc] }
  else { p with acc := acc, accLen := BitVec.ofNat 3 k }

/-- The bits of a code appended in order, c_0 first (R201). -/
def Packer.appendBits (p : Packer) (bits : List Bool) : Packer := bits.foldl Packer.appendBit p

/-- EN_START (R200). -/
def execEnStart (s : State) : Result :=
  s.gated fun s =>
    if s.tableValid then .next { s with packer := { active := true, acc := 0, accLen := 0, pkq := [] } }
    else .next (s.raise .sequence)

/-- EN_SYM (R201): the checks in the rule's order, then the code's bits. -/
def execEnSym (sym : Symbol) (s : State) : Result :=
  s.gated fun s =>
    let e := s.entryOf sym
    if !s.packer.active then .next (s.raise .sequence)
    else if e.len = 0 then .next (s.abortEncode.raise .missingCode)
    else if (s.packer.accLen.toNat + e.len.toNat) / 8 > s.config.pkDepth.val - s.packer.pkq.length then
      .next (s.raise .fifoOverflow)
    else .next { s with packer := s.packer.appendBits e.code }

/-- EN_FLUSH (R202). -/
def execEnFlush (s : State) : Result :=
  s.gated fun s =>
    if !s.packer.active then .next (s.raise .sequence)
    else if s.packer.accLen ≠ 0 ∧ s.packer.pkq.length = s.config.pkDepth.val then .next (s.raise .fifoOverflow)
    else
      let q := if s.packer.accLen ≠ 0 then s.packer.pkq ++ [s.packer.acc] else s.packer.pkq
      .next { s with packer := { active := false, acc := 0, accLen := 0, pkq := q } }

end Sys2Proof.Machine
end

