-- ==== Sys2Proof/Machine/BitUnpacker.lean ====
section
/-! DEFINITION. Bit unpacker commands (45_bit_unpacker.md R220 to R225). -/

namespace Sys2Proof.Machine

/-- What one DecodeBit did (R223): it went on, or the 255th bit matched nothing. -/
inductive BitStep where
  | ok (u : Unpacker)
  | overflow (u : Unpacker)
  deriving DecidableEq, Repr

/-- DecodeBit(b) (R223), up to the raise: after `overflow` the caller runs AbortDecode and raises CAND_OVERFLOW. -/
def Unpacker.decodeBit (t : CodeTable) (u : Unpacker) (b : Bool) : BitStep :=
  let cand := setBit u.cand u.candLen.toNat b
  let n := u.candLen.toNat + 1
  match t.lookup n cand with
  | some sym =>
    let count := u.decCount + 1
    .ok { u with
      dkq := u.dkq ++ [sym], decCount := count, cand := 0, candLen := 0
      dstate := if count = u.decTarget then .done else u.dstate }
  | none =>
    let u' := { u with cand := cand, candLen := BitVec.ofNat 8 n }
    if n = maxCodeLen then .overflow u' else .ok u'

/-- The loop of DE_BYTE (R221): bit by bit, leaving the loop when DSTATE is no longer ACCUMULATING. -/
def Unpacker.decodeBits (t : CodeTable) (u : Unpacker) : List Bool → BitStep
  | [] => .ok u
  | b :: rest =>
    match u.decodeBit t b with
    | .ok u' => if u'.dstate = .accumulating then u'.decodeBits t rest else .ok u'
    | .overflow u' => .overflow u'

/-- DE_START (R220): OriginalLength is ARG. -/
def execDeStart (s : State) : Result :=
  s.gated fun s =>
    if s.tableValid then
      .next { s with
        unpacker :=
          { dstate := if s.arg = 0 then .done else .accumulating
            cand := 0, candLen := 0, decCount := 0, decTarget := s.arg, dkq := [] } }
    else .next (s.raise .sequence)

/-- DE_BYTE (R221). -/
def execDeByte (byte : Byte) (s : State) : Result :=
  s.gated fun s =>
    if s.unpacker.dstate = .done then .next s
    else if s.unpacker.dstate ≠ .accumulating then .next (s.raise .sequence)
    else if s.config.dkDepth.val - s.unpacker.dkq.length < 8 then .next (s.raise .fifoOverflow)
    else
      match s.unpacker.decodeBits s.table (byteBits byte) with
      | .ok u => .next { s with unpacker := u }
      | .overflow u => .next ({ s with unpacker := u }.abortDecode.raise .candOverflow)

/-- DE_END (R222). -/
def execDeEnd (s : State) : Result :=
  s.gated fun s =>
    if s.unpacker.dstate = .done then .next s
    else if s.unpacker.dstate ≠ .accumulating then .next (s.raise .sequence)
    else .next (s.abortDecode.raise .truncated)

end Sys2Proof.Machine
end

