-- ==== Sys2Proof/Machine/CoreControl.lean ====
section
/-! DEFINITION. Core control commands (40_core_control.md R120 to R122).  All are ungated (R98). -/

namespace Sys2Proof.Machine

/-- NOP (R120): `skip`. -/
def execNop (s : State) : Result := .next s

/-- SOFT_RESET (R121): ResetState(). -/
def execSoftReset (s : State) : Result := .next s.resetState

/-- CLR_ERR (R122): ERRCAUSE <- 0x00. -/
def execClrErr (s : State) : Result := .next s.clearError

end Sys2Proof.Machine
end

