-- ==== Sys2Proof/Machine/FrequencyCounter.lean ====
section
/-! DEFINITION. Frequency counter commands (41_frequency_counter.md R130 to R134). -/

namespace Sys2Proof.Machine

/-- FREQ[sym]. -/
def State.freqOf (s : State) (sym : Symbol) : Word := readSym s.fc.freq sym

/-- FREQ[sym] <- count; TOTAL <- total; TREE_VALID <- 0: how a performed FC_COUNT or FC_SET ends (R43, R131, R132). -/
def State.setFreq (sym : Symbol) (count total : Word) (s : State) : State :=
  { s with
    fc := { freq := writeSym s.fc.freq sym count, total := total }
    tree := { s.tree with treeValid := false } }

/-- FC_CLEAR (R130). -/
def execFcClear (s : State) : Result :=
  s.gated fun s =>
    .next { s with
      fc := { freq := Arr.replicate 256 0, total := 0 }
      tree := { s.tree with treeValid := false } }

/-- FC_COUNT (R131). -/
def execFcCount (sym : Symbol) (s : State) : Result :=
  s.gated fun s =>
    if s.fc.total.toNat = maxTotal then .next (s.raise .lenOverflow)
    else .next (s.setFreq sym (s.freqOf sym + 1) (s.fc.total + 1))

/-- FC_SET (R132): the new sum is computed exactly before anything is written. -/
def execFcSet (sym : Symbol) (s : State) : Result :=
  s.gated fun s =>
    let t : Int := s.fc.total.toNat - (s.freqOf sym).toNat + s.arg.toNat
    if t > maxTotal then .next (s.raise .lenOverflow)
    else .next (s.setFreq sym s.arg (BitVec.ofInt 32 t))

/-- FC_READ (R133). -/
def execFcRead (sym : Symbol) (s : State) : Result := .next (s.setResult (s.freqOf sym))

end Sys2Proof.Machine
end

