-- ==== Sys2Proof/Machine/TreeBuilder.lean ====
section
/-! DEFINITION. Tree builder commands (42_tree_builder.md R150 to R158).  The nodes that TB_BUILD has written so far are a
list, whose length is the rule's `next`; the priority queue is a list of indices, the hidden structure of R49. -/

namespace Sys2Proof.Machine

/-- A leaf for a symbol and its count (R151). -/
def Node.leafOf (sym : Symbol) (count : Word) : Node :=
  { kind := .leaf, weight := count, symbol := sym, left := 0, right := 0 }

/-- The leaves of R151: one per symbol with a count above 0, in ascending symbol order. -/
def leavesOf (freq : Arr Word 256) : List Node :=
  ((allSymbols.zip freq.toList).filter fun p => p.2 ≠ 0).map fun p => Node.leafOf p.1 p.2

/-- NODE[i].WEIGHT among the nodes written so far. -/
def weightAt (nodes : List Node) (i : Nat) : Nat := (nodes[i]?.getD Node.zero).weight.toNat

/-- The key order of R152: (NODE[i].WEIGHT, i) is below (NODE[j].WEIGHT, j), weight first, then index. -/
def keyLt (nodes : List Node) (i j : Nat) : Bool :=
  weightAt nodes i < weightAt nodes j || (weightAt nodes i == weightAt nodes j && i < j)

/-- The index of least key among i and the queue (R152). -/
def minKey (nodes : List Node) (i : Nat) : List Nat → Nat
  | [] => i
  | j :: rest => minKey nodes (if keyLt nodes j i then j else i) rest

/-- ExtractMin(PQ) (R152): the index of least key and the queue without it; none for an empty queue. -/
def extractMin (nodes : List Node) : List Nat → Option (Nat × List Nat)
  | [] => none
  | i :: rest =>
    let m := minKey nodes i rest
    some (m, (i :: rest).erase m)

/-- The internal node that joins a, extracted first, and b (R153): LEFT = b, RIGHT = a, the weight their sum. -/
def Node.join (nodes : List Node) (a b : Nat) : Node :=
  { kind := .internal
    weight := BitVec.ofNat 32 (weightAt nodes a + weightAt nodes b)
    symbol := 0
    left := BitVec.ofNat 9 b
    right := BitVec.ofNat 9 a }

/-- The merge loop of R150, at most `fuel` merges: while |PQ| ≥ 2, extract a then b and insert their join. -/
def mergeLoop : Nat → List Node → List Nat → List Node
  | 0, nodes, _ => nodes
  | fuel + 1, nodes, pq =>
    match extractMin nodes pq with
    | none => nodes
    | some (a, pq₁) =>
      match extractMin nodes pq₁ with
      | none => nodes
      | some (b, pq₂) => mergeLoop fuel (nodes ++ [Node.join nodes a b]) (nodes.length :: pq₂)

/-- The nodes TB_BUILD writes: the leaves, then the joins in creation order.  n leaves need n − 1 merges (R154). -/
def buildNodes (freq : Arr Word 256) : List Node :=
  let leaves := leavesOf freq
  mergeLoop leaves.length leaves (List.range leaves.length)

/-- The arena that holds the given nodes from index 0 and all-zero entries above them (R42, R150). -/
def arenaOf (nodes : List Node) : Arr Node 511 :=
  ⟨(nodes ++ List.replicate nodeMax Node.zero).take nodeMax, by
    simp only [List.length_take, List.length_append, List.length_replicate]
    exact Nat.min_eq_left (Nat.le_add_left nodeMax nodes.length)⟩

/-- The tree TB_BUILD makes of FREQ (R150, R154, R155): a function of FREQ alone (R158). -/
def buildTree (freq : Arr Word 256) : TreeBuilder :=
  let nodes := buildNodes freq
  { node := arenaOf nodes
    nodeCount := BitVec.ofNat 10 nodes.length
    root := BitVec.ofNat 9 (nodes.length - 1)
    rootValid := !nodes.isEmpty
    treeValid := true }

/-- TB_BUILD (R150). -/
def execTbBuild (s : State) : Result := s.gated fun s => .next { s with tree := buildTree s.fc.freq }

/-- TB_READW's value (R156). -/
def TreeBuilder.weightWord (t : TreeBuilder) (idx : NodeIndex) : Word :=
  if idx.toNat < t.nodeCount.toNat then (readNode t.node idx).weight else 0

/-- TB_READN's value (R157). -/
def TreeBuilder.nodeWord (t : TreeBuilder) (idx : NodeIndex) : Word :=
  if idx.toNat < t.nodeCount.toNat then
    let n := readNode t.node idx
    match n.kind with
    | .leaf => 0#24 ++ n.symbol
    | .internal => 1#1 ++ 0#6 ++ n.left ++ 0#7 ++ n.right
  else 0

/-- TB_READW (R156). -/
def execTbReadw (idx : NodeIndex) (s : State) : Result := .next (s.setResult (s.tree.weightWord idx))

/-- TB_READN (R157). -/
def execTbReadn (idx : NodeIndex) (s : State) : Result := .next (s.setResult (s.tree.nodeWord idx))

end Sys2Proof.Machine
end

