-- ==== Sys2Proof/Machine/Dispatch.lean ====
section
/-! DEFINITION. The dispatch of a decoded command to its meaning (30_encoding.md R93, R97). -/

namespace Sys2Proof.Machine

def exec (i : Instr) (s : State) : Host.Outcome State Fault Refusal :=
  match i with
  -- core control
  | .nop => Sys2Proof.Machine.execNop s
  | .softReset => Sys2Proof.Machine.execSoftReset s
  | .clrErr => Sys2Proof.Machine.execClrErr s
  -- frequency counter
  | .fcClear => Sys2Proof.Machine.execFcClear s
  | .fcCount sym => Sys2Proof.Machine.execFcCount sym s
  | .fcSet sym => Sys2Proof.Machine.execFcSet sym s
  | .fcRead sym => Sys2Proof.Machine.execFcRead sym s
  -- tree builder
  | .tbBuild => Sys2Proof.Machine.execTbBuild s
  | .tbReadw idx => Sys2Proof.Machine.execTbReadw idx s
  | .tbReadn idx => Sys2Proof.Machine.execTbReadn idx s
  -- code table
  | .caAssign => Sys2Proof.Machine.execCaAssign s
  | .ctClear => Sys2Proof.Machine.execCtClear s
  | .ctSetlen sym len => Sys2Proof.Machine.execCtSetlen sym len s
  | .ctSetbits sym chunk => Sys2Proof.Machine.execCtSetbits sym chunk s
  | .ctValidate => Sys2Proof.Machine.execCtValidate s
  | .ctReadlen sym => Sys2Proof.Machine.execCtReadlen sym s
  | .ctReadbits sym chunk => Sys2Proof.Machine.execCtReadbits sym chunk s
  -- bit packer
  | .enStart => Sys2Proof.Machine.execEnStart s
  | .enSym sym => Sys2Proof.Machine.execEnSym sym s
  | .enFlush => Sys2Proof.Machine.execEnFlush s
  -- bit unpacker
  | .deStart => Sys2Proof.Machine.execDeStart s
  | .deByte byte => Sys2Proof.Machine.execDeByte byte s
  | .deEnd => Sys2Proof.Machine.execDeEnd s

end Sys2Proof.Machine
end

