-- ==== Sys2Proof/Machine/Port.lean ====
section
/-! DEFINITION. The host port: the register window (10_state.md R23 to R38), the host's three actions (20_memory.md R61 to
R67), the command cycle (30_encoding.md R97) and the BUSY hold (20_memory.md R71). -/

namespace Sys2Proof.Machine

/-- The offset of CMD (R23). -/
def cmdOffset : Offset := 0x04#8
/-- The offset of ARG (R23). -/
def argOffset : Offset := 0x08#8
/-- The offset of STATUS (R23). -/
def statusOffset : Offset := 0x0C#8
/-- The offset of PK_OUT (R23). -/
def pkOutOffset : Offset := 0x18#8
/-- The offset of DK_OUT (R23). -/
def dkOutOffset : Offset := 0x1C#8

/-- A full, aligned read of the register at an offset (R24 to R38): the value, and the state after a pop. -/
def readReg (off : Offset) (s : State) : Word × State :=
  match off.toNat with
  | 0x00 => (idValue, s)
  | 0x04 => (0#32, s)
  | 0x08 => (s.arg, s)
  | 0x0C => (s.status, s)
  | 0x10 => (s.errcauseWord, s)
  | 0x14 => (s.result, s)
  | 0x18 => s.popPk
  | 0x1C => s.popDk
  | 0x20 => (s.fc.total, s)
  | 0x24 => (s.unpacker.decCount, s)
  | 0x28 => (s.unpacker.decTarget, s)
  | 0x2C => (s.encInfo, s)
  | 0x30 => (s.decInfo, s)
  | 0x34 => (s.treeInfo, s)
  | _ => (0#32, s)

/-- BUSY <- 0 at the end of the command cycle (R97). -/
def finishCommand : Result → Result
  | .next s => .next { s with busy := false }
  | .fault f => .fault f
  | .refused r => .refused r

/-- Issue(w), the command cycle (R97): BUSY <- 1, decode, the command or ILLEGAL_CMD, BUSY <- 0.  The gate stands in each
gated command's meaning (`State.gated`), after decoding and before the command's own checks (R256). -/
def issue (w : Word) (s : State) : Result :=
  let s := { s with busy := true }
  finishCommand <|
    match decode w with
    | .instr i => exec i s
    | .rejected _ => .next (s.raise .illegalCmd)

/-- A full, aligned write of v to the register at an offset: CMD issues a command (R25), ARG stores v (R26), and every other
write is ignored (R38, R67). -/
def writeReg (off : Offset) (v : Word) (s : State) : Result :=
  match off.toNat with
  | 0x04 => issue v s
  | 0x08 => .next { s with arg := v }
  | _ => .next s

/-- The value of the host's read joins the values it has been given (R61). -/
def respond (v : Word) (s : State) : State := { s with responses := s.responses ++ [v] }

/-- One host action (R61).  A narrower or misaligned write is ignored; a narrower or misaligned read is answered with 0 and
has no side effect (R62). -/
def perform (a : HostAction) (s : State) : Result :=
  match a with
  | .write off size v => if accessWf size off then writeReg off v s else .next s
  | .read off size =>
    if accessWf size off then
      let r := readReg off s
      .next (respond r.1 r.2)
    else .next (respond 0#32 s)
  | .reset => .next s.resetState

/-- The actions that BUSY = 1 holds: every access except a read of STATUS or ID (R71).  Reset is no access and is never
held (R280). -/
def heldByBusy : HostAction → Bool
  | .write _ _ _ => true
  | .read off size => !(accessWf size off && (off == 0x00#8 || off == statusOffset))
  | .reset => false

/-- One step at the port.  With nothing pending the core is idle and "keeps all state" (R265).  While BUSY = 1 a held access
waits until the core has finished (R50, R71); no run reaches that case, since every command ends with BUSY = 0.  Else the
next action of the host is performed (R70). -/
def hostStep (s : State) : Result :=
  match s.pending with
  | [] => .next s
  | a :: rest =>
    if s.busy && heldByBusy a then .next { s with busy := false } else perform a { s with pending := rest }

/-- The host's write of a command word to CMD. -/
def writeCmd (w : Word) : HostAction := .write cmdOffset .word w

end Sys2Proof.Machine
end

