-- ==== Sys2Proof/Machine/Step.lean ====
section
/-! DEFINITION. One step of the machine: one host action (00_scope.md R2, 20_memory.md R61). -/

namespace Sys2Proof.Machine

/-- "A model step is one of these actions" (R61): the next action of the host's stream. -/
def step (s : State) : Host.Outcome State Fault Refusal := hostStep s

/-- The state in which the very next step issues the command word w: HUFCORE fetches nothing (R22), so the word is the
host's next access, a write to CMD, and BUSY is 0 so that the access is not held (notes/assumptions/4.md). -/
def State.withFetchWord (s : State) (nbits w : Nat) : State :=
  { s with busy := false, pending := writeCmd (BitVec.ofNat 32 (w % 2 ^ nbits)) :: s.pending }

end Sys2Proof.Machine
end

