-- ==== Sys2Proof/Machine/HostProgram.lean ====
section
/-! DEFINITION. Host programs: the pseudo-instructions of 30_encoding.md R102 and the operating sequences of
70_reset_and_hazards.md R284 to R286.  They are the host's side of the port; `step` uses none of them.  Statements about
whole sessions are made in their terms. -/

namespace Sys2Proof.Machine

/-- The state after an action or command, all of which answer a next state. -/
def Result.stateOr (r : Result) (s : State) : State :=
  match r with
  | .next t => t
  | .fault _ => s
  | .refused _ => s

/-- A command line: "stands for `WR CMD, <word>`" (R101). -/
def command (i : Instr) : HostAction := writeCmd (encode i)

/-- `RD <reg>` (R101). -/
def readAction (off : Offset) : HostAction := .read off .word

/-- SETARG v (R102). -/
def setArg (v : Word) : HostAction := .write argOffset .word v

/-- COUNT "s" (R102). -/
def countActions (xs : List Symbol) : List HostAction := xs.map fun x => command (.fcCount x)

/-- LOADCODE s, L, b (R102): b holds the code with c_0 at bit 0. -/
def loadCode (sym : Symbol) (len : CodeLen) (bits : CodeBits) : List HostAction :=
  ((List.range ((len.toNat + 31) / 32)).flatMap fun k =>
    [setArg (readChunk bits (BitVec.ofNat 3 k)), command (.ctSetbits sym (BitVec.ofNat 3 k))]) ++
  [command (.ctSetlen sym len)]

/-- The table-loading part of R286: CT_CLEAR, LOADCODE for each stored triple, CT_VALIDATE. -/
def loadTable (codes : List (Symbol × CodeLen × CodeBits)) : List HostAction :=
  command .ctClear :: (codes.flatMap fun c => loadCode c.1 c.2.1 c.2.2) ++ [command .ctValidate]

/-- The table-building part of R284: FC_CLEAR, COUNT, TB_BUILD, CA_ASSIGN. -/
def buildTable (xs : List Symbol) : List HostAction :=
  command .fcClear :: countActions xs ++ [command .tbBuild, command .caAssign]

/-- The table-building part of R285 from a stored FrequencyTable. -/
def rebuildTable (counts : List (Symbol × Word)) : List HostAction :=
  command .fcClear :: (counts.flatMap fun c => [setArg c.2, command (.fcSet c.1)]) ++ [command .tbBuild, command .caAssign]

/-- The host's actions performed one after the other, each complete before the next (R70). -/
def performAll : List HostAction → State → State
  | [], s => s
  | a :: rest, s => performAll rest ((perform a s).stateOr s)

/-- A command issued through CMD. -/
def runCommand (i : Instr) (s : State) : State := (perform (command i) s).stateOr s

/-- A drain loop (R102): read until a read returns bit 8 = 0, keeping bits [7:0] of every read with bit 8 = 1, in order; at
most `fuel` reads. -/
def drain (off : Offset) : Nat → State → List Byte × State
  | 0, s => ([], s)
  | fuel + 1, s =>
    let r := readReg off s
    if r.1.getLsbD 8 then
      let rest := drain off fuel r.2
      (r.1.extractLsb' 0 8 :: rest.1, rest.2)
    else ([], r.2)

/-- DRAIN_PK (R102): one read for each queued byte and the read that finds PKQ empty. -/
def drainPk (s : State) : List Byte × State := drain pkOutOffset (s.packer.pkq.length + 1) s

/-- DRAIN_DK (R102). -/
def drainDk (s : State) : List Byte × State := drain dkOutOffset (s.unpacker.dkq.length + 1) s

/-- ENCODE "s" (R102): EN_SYM c then DRAIN_PK for each byte c; the bytes drained, in order. -/
def encodeSymbols : List Symbol → State → List Byte × State
  | [], s => ([], s)
  | x :: xs, s =>
    let d := drainPk (runCommand (.enSym x) s)
    let r := encodeSymbols xs d.2
    (d.1 ++ r.1, r.2)

/-- The second pass of R284: EN_START, ENCODE, EN_FLUSH, DRAIN_PK; the PackedByteStream. -/
def encodeStream (xs : List Symbol) (s : State) : List Byte × State :=
  let r := encodeSymbols xs (runCommand .enStart s)
  let d := drainPk (runCommand .enFlush r.2)
  (r.1 ++ d.1, d.2)

/-- DE_BYTE p then DRAIN_DK for each packed byte p; the symbols drained, in order. -/
def decodePacked : List Byte → State → List Symbol × State
  | [], s => ([], s)
  | p :: ps, s =>
    let d := drainDk (runCommand (.deByte p) s)
    let r := decodePacked ps d.2
    (d.1 ++ r.1, r.2)

/-- DECODE n, b0, ..., bm (R102): SETARG n, DE_START, the packed bytes, DE_END. -/
def decodeStream (n : Word) (ps : List Byte) (s : State) : List Symbol × State :=
  let s₀ := (perform (setArg n) s).stateOr s
  let r := decodePacked ps (runCommand .deStart s₀)
  (r.1, runCommand .deEnd r.2)

end Sys2Proof.Machine
end

