-- ==== Sys2Proof/Safety.lean ====
section
/-! DEFINITION. What counts as a good state and a right output, in the terms the claims use: the invariants the spec states
(10_state.md R41 to R48), prefix-freedom over bit strings (43_code_table.md R177) and the byte stream of a bit string
(20_memory.md R64). -/

namespace Sys2Proof.Machine

/-- Σ FREQ[s] over all symbols. -/
def sumOf (freq : Arr Word 256) : Nat := (freq.toList.map BitVec.toNat).sum

/-- R41: TOTAL = Σ FREQ[s].  (TOTAL ≤ 2^32 − 1 is its width.) -/
abbrev State.CountsAgree (s : State) : Prop := s.fc.total.toNat = sumOf s.fc.freq

/-- R47, R48: the FIFOs hold at most PK_DEPTH bytes and DK_DEPTH symbols. -/
abbrev State.FifosFit (s : State) : Prop :=
  s.packer.pkq.length ≤ s.config.pkDepth.val ∧ s.unpacker.dkq.length ≤ s.config.dkDepth.val

/-- R42, R43: at most 511 nodes, all-zero entries from NODE_COUNT on, and a root iff there is a node, the last one. -/
abbrev State.ArenaShape (s : State) : Prop :=
  s.tree.nodeCount.toNat ≤ nodeMax ∧
  (∀ n ∈ s.tree.node.toList.drop s.tree.nodeCount.toNat, n = Node.zero) ∧
  (s.tree.rootValid = true ↔ s.tree.nodeCount ≠ 0) ∧
  (s.tree.root.toNat = s.tree.nodeCount.toNat - 1)

/-- R43, R158: a valid tree is the one that FREQ gives. -/
abbrev State.TreeCurrent (s : State) : Prop := s.tree.treeValid = true → s.tree = buildTree s.fc.freq

/-- R45: TABLE_VALID = 1 only for a table that passes the validity check. -/
abbrev State.TableChecked (s : State) : Prop := s.tableValid = true → s.table.valid = true

/-- R44, R181: an open session has a validated table. -/
abbrev State.SessionHasTable (s : State) : Prop := s.sessionActive = true → s.tableValid = true

/-- R47: ACC[7:ACC_LEN] = 0, and nothing is pending outside a session. -/
abbrev State.PackerClean (s : State) : Prop :=
  s.packer.acc.toNat < 2 ^ s.packer.accLen.toNat ∧
  (s.packer.active = false → s.packer.acc = 0 ∧ s.packer.accLen = 0)

/-- R48: CAND[254:CAND_LEN] = 0 and what each DSTATE says of the counters. -/
abbrev State.UnpackerClean (s : State) : Prop :=
  s.unpacker.cand.toNat < 2 ^ s.unpacker.candLen.toNat ∧
  (s.unpacker.dstate = .accumulating →
    s.unpacker.decCount.toNat < s.unpacker.decTarget.toNat ∧ s.unpacker.candLen.toNat ≤ 254) ∧
  (s.unpacker.dstate = .done → s.unpacker.decCount = s.unpacker.decTarget) ∧
  (s.unpacker.dstate = .failed → s.unpacker.dkq = []) ∧
  (s.unpacker.dstate = .idle →
    s.unpacker.decCount = 0 ∧ s.unpacker.decTarget = 0 ∧ s.unpacker.candLen = 0 ∧ s.unpacker.dkq = [])

/-- The invariant of HUFCORE: every clause above, and "no model step sees BUSY = 1" (R71). -/
abbrev State.Inv (s : State) : Prop :=
  s.busy = false ∧ s.CountsAgree ∧ s.FifosFit ∧ s.ArenaShape ∧ s.TreeCurrent ∧ s.TableChecked ∧ s.SessionHasTable ∧
  s.PackerClean ∧ s.UnpackerClean

/-- The code of a symbol as a bit string, empty if it has none (R8, R44). -/
def CodeTable.codeOf (t : CodeTable) (sym : Symbol) : List Bool := (readSym t sym).code

/-- R177 over bit strings: no code is a prefix of the code of another symbol that has one. -/
def CodeTable.PrefixFree (t : CodeTable) : Prop :=
  ∀ a b : Symbol, a ≠ b → t.codeOf a ≠ [] → t.codeOf b ≠ [] → ¬ t.codeOf a <+: t.codeOf b

/-- The EncodedBitstream of an input under a table: its codes concatenated (R10, R204). -/
def CodeTable.bitstream (t : CodeTable) (xs : List Symbol) : List Bool := xs.flatMap t.codeOf

/-- The symbols that occur in FREQ, ascending (R151). -/
def presentSymbols (freq : Arr Word 256) : List Symbol :=
  ((allSymbols.zip freq.toList).filter fun p => p.2 ≠ 0).map (·.1)

/-- The number of symbols that occur in FREQ: the leaves TB_BUILD allocates (R151). -/
def leafCount (freq : Arr Word 256) : Nat := (presentSymbols freq).length

/-- The node at an index of the arena. -/
def TreeBuilder.at (t : TreeBuilder) (j : Nat) : Node := t.node.toList[j]?.getD Node.zero

/-- The key of node i is below the key of node j (R152). -/
def TreeBuilder.KeyBelow (t : TreeBuilder) (i j : Nat) : Prop :=
  (t.at i).weight.toNat < (t.at j).weight.toNat ∨ ((t.at i).weight = (t.at j).weight ∧ i < j)

/-- Node k has node j as a child (R42). -/
def TreeBuilder.IsChild (t : TreeBuilder) (k j : Nat) : Prop :=
  (t.at k).kind = .internal ∧ ((t.at k).left.toNat = j ∨ (t.at k).right.toNat = j)

/-- Node j is in the priority queue when node m is created: it exists and no node before m has extracted it (R150). -/
def TreeBuilder.Waiting (t : TreeBuilder) (m j : Nat) : Prop := j < m ∧ ∀ k, k < m → ¬ t.IsChild k j

/-- The node reached from node i by a bit string: LEFT by 0, RIGHT by 1 (R171); none past a leaf. -/
def TreeBuilder.walk (t : TreeBuilder) (i : NodeIndex) : List Bool → Option Node
  | [] => some (readNode t.node i)
  | b :: rest =>
    match (readNode t.node i).kind with
    | .leaf => none
    | .internal => t.walk (if b then (readNode t.node i).right else (readNode t.node i).left) rest

/-- The bits the packer holds: the queued bytes' and the pending ones, in stream order (R64, R203). -/
def Packer.bits (p : Packer) : List Bool := p.pkq.flatMap byteBits ++ (byteBits p.acc).take p.accLen.toNat

/-- The bits of the candidate, in the order they were appended (R48). -/
def Unpacker.candBits (u : Unpacker) : List Bool := (List.range u.candLen.toNat).map u.cand.getLsbD

/-- R64: the bytes hold the bit string, bit k being bit (k mod 8) of byte k div 8, in ceil(|bits|/8) bytes, every pad bit 0. -/
def PacksTo (bytes : List Byte) (bits : List Bool) : Prop :=
  bytes.length = (bits.length + 7) / 8 ∧
  ∀ k, k < 8 * bytes.length → (bytes[k / 8]?.getD 0).getLsbD (k % 8) = bits[k]?.getD false

/-- A code matches the first L bits of c (R180). -/
def CodeTable.Matches (t : CodeTable) (L : Nat) (c : CodeBits) (sym : Symbol) : Prop :=
  (readSym t sym).len.toNat = L ∧ ∀ k, k < L → (readSym t sym).bits.getLsbD k = c.getLsbD k

/-- R223: the match is tried after every appended bit and the first match ends the code word.  The bits are the codes of `xs`
and then `rest`; the first `old` of them had been tried before.  Wherever a symbol x's code p stands next behind the codes of
ys and ends in a bit tried now, a symbol is emitted there, with a shorter code, or with that code and no larger than x (R180);
and the first code emitted ends in a bit tried now. -/
def CodeTable.FirstMatches (t : CodeTable) (old : Nat) (xs : List Symbol) (rest : List Bool) : Prop :=
  (∀ (ys zs : List Symbol) (p r : List Bool) (x : Symbol),
    xs = ys ++ zs → p ++ r = t.bitstream zs ++ rest → p ≠ [] → old < (t.bitstream ys ++ p).length → t.codeOf x = p →
    ∃ (z : Symbol) (ws : List Symbol), zs = z :: ws ∧
      ((t.codeOf z).length < p.length ∨ (t.codeOf z).length = p.length ∧ z.toNat ≤ x.toNat)) ∧
  (∀ (z : Symbol) (ws : List Symbol), xs = z :: ws → old < (t.codeOf z).length)

/-- The query commands of R29. -/
def isQuery : Instr → Bool
  | .fcRead _ | .tbReadw _ | .tbReadn _ | .ctReadlen _ | .ctReadbits _ _ => true
  | .nop | .softReset | .clrErr | .fcClear | .fcCount _ | .fcSet _ | .tbBuild | .caAssign | .ctClear | .ctSetlen _ _
  | .ctSetbits _ _ | .ctValidate | .enStart | .enSym _ | .enFlush | .deStart | .deByte _ | .deEnd => false

/-- The table-writing commands of R181. -/
def isTableWrite : Instr → Bool
  | .caAssign | .ctClear | .ctSetlen _ _ | .ctSetbits _ _ | .ctValidate => true
  | .nop | .softReset | .clrErr | .fcClear | .fcCount _ | .fcSet _ | .fcRead _ | .tbBuild | .tbReadw _ | .tbReadn _
  | .ctReadlen _ | .ctReadbits _ _ | .enStart | .enSym _ | .enFlush | .deStart | .deByte _ | .deEnd => false

end Sys2Proof.Machine
end

