-- ==== Sys2Proof/Certificates/Slice0/Obligations.lean ====
section
/-! DEFINITION. The statements for the provers: what the numbered rules of spec/ say the commands and the port do. -/

open Sys2Proof Sys2Proof.Machine

/-! ### Encoding -/

/-- R91, R93, R101: decoding the word assembled for a command gives the command back, with every operand. -/
def Obligations.DecodeInvertsEncode : Prop :=
  ∀ i : Instr, i.wf = true → decode (encode i) = .instr i

/-- R90 to R93: a word that decodes is the one word of its command; no bit of it is dropped. -/
def Obligations.EncodeInvertsDecode : Prop :=
  ∀ (w : Word) (i : Instr), decode w = .instr i → encode i = w ∧ i.wf = true

/-- R93: "w selects the row iff (w & mask) = match". -/
def Obligations.WordSelectsRowByMaskAndMatch : Prop :=
  ∀ (w : Word) (k : Instr),
    (∃ i, decode w = .instr i ∧ i.opcode = k.opcode) ↔ w &&& k.rowMask = k.rowMatch

/-- R94, R95: an unassigned opcode, or a reserved bit under an assigned one, raises ILLEGAL_CMD and has no other effect. -/
def Obligations.IllegalWordRaisesOnlyIllegalCmd : Prop :=
  ∀ (w : Word) (s : State),
    (let op := (opField w).toNat
     ((0x03 ≤ op ∧ op ≤ 0x0F) ∨ (0x14 ≤ op ∧ op ≤ 0x1F) ∨ (0x23 ≤ op ∧ op ≤ 0x2F) ∨ (0x37 ≤ op ∧ op ≤ 0x3F) ∨
      (0x43 ≤ op ∧ op ≤ 0x4F) ∨ 0x53 ≤ op) ∨
     ∃ k : Instr, opField w = k.opcode ∧ w &&& k.format.rsv ≠ 0) →
    issue w s =
      .next { s with busy := false, errcause := if s.errcause = .noError then .illegalCmd else s.errcause }

/-- R91, R93: words written out from the formats decode to the commands they stand for; one per family and format. -/
def Obligations.SampleWordsDecode : Prop :=
  decode 0b00000010000000000000000000000000#32 = .instr .clrErr ∧
  decode 0b00010001000000000000000001100001#32 = .instr (.fcCount 0x61) ∧
  decode 0b00100010000000000000000111111110#32 = .instr (.tbReadn 510) ∧
  decode 0b00110010000000001111111101000001#32 = .instr (.ctSetlen 0x41 255) ∧
  decode 0b00110011000000000000011101000001#32 = .instr (.ctSetbits 0x41 7) ∧
  decode 0b01000001000000000000000001100010#32 = .instr (.enSym 0x62) ∧
  decode 0b01010001000000000000000011111111#32 = .instr (.deByte 0xFF)

/-- The byte form of a command is the model's own (`decodeBytes`, notes/assumptions/12.md): the core sees no bytes.  The four
bytes of a command word in the lane order of R63, lowest address first, decode to the command, and what follows is left. -/
def Obligations.CommandBytesDecode : Prop :=
  ∀ (i : Instr) (rest : List Byte), decodeBytes (wordBytes (encode i) ++ rest) = .ok (i, rest)

/-! ### The port -/

/-- R61, R97: when the host's next action writes a word that decodes to i, the step is exec of i, between BUSY <- 1 and
BUSY <- 0, with that action taken from the host's stream. -/
def Obligations.StepRunsDecodedCommand : Prop :=
  ∀ (s : State) (w : Word) (i : Instr) (rest : List HostAction),
    s.busy = false → s.pending = .write 0x04 .word w :: rest → decode w = .instr i →
    step s = finishCommand (exec i { s with busy := true, pending := rest })

/-- R2, R71: every command runs to completion; no step faults or is refused, in any state. -/
def Obligations.EveryStepAnswersNextState : Prop :=
  ∀ s : State, ∃ t, step s = .next t

/-- R70, R71: the step performs the first pending action and only it, answers a read with the value the earlier accesses
leave, never changes the parameters and ends with BUSY = 0.  That the pending actions and the answers stand in the state, and that
a Reset or SOFT_RESET keeps those behind and before it, is the model's choice (notes/assumptions/2.md, 3.md). -/
def Obligations.PortServesAccessesInOrder : Prop :=
  ∀ (s : State) (a : HostAction) (rest : List HostAction),
    s.busy = false → s.pending = a :: rest →
    ∃ t, step s = .next t ∧ t.pending = rest ∧ t.busy = false ∧ t.config = s.config ∧
      t.responses = s.responses ++
        match a with
        | .read off size => [if accessWf size off then (readReg off s).1 else 0]
        | .write _ _ _ => []
        | .reset => []

/-- R62: a narrower or misaligned write changes nothing; such a read is answered with 0 and changes nothing else. -/
def Obligations.PartialAccessesIgnored : Prop :=
  ∀ (s : State) (off : Offset) (size : AccessSize) (v : Word) (rest : List HostAction),
    s.busy = false → (size ≠ .word ∨ off.toNat % 4 ≠ 0) →
    (s.pending = .write off size v :: rest → step s = .next { s with pending := rest }) ∧
    (s.pending = .read off size :: rest →
      step s = .next { s with pending := rest, responses := s.responses ++ [0] })

/-- R38, R67: a write to a read-only register or a reserved offset is ignored; a read of a reserved offset returns 0. -/
def Obligations.ReadOnlyWritesIgnored : Prop :=
  ∀ (s : State) (off : Offset) (v : Word) (rest : List HostAction),
    s.busy = false → off.toNat % 4 = 0 →
    (off ∈ [0x00#8, 0x0C#8, 0x10#8, 0x14#8, 0x18#8, 0x1C#8, 0x20#8, 0x24#8, 0x28#8, 0x2C#8, 0x30#8, 0x34#8] ∨
      0x38 ≤ off.toNat) →
    (s.pending = .write off .word v :: rest → step s = .next { s with pending := rest }) ∧
    (0x38 ≤ off.toNat → s.pending = .read off .word :: rest →
      step s = .next { s with pending := rest, responses := s.responses ++ [0] })

/-- R26: a write to ARG stores all 32 bits and nothing else, an error recorded or not, and the next read returns them. -/
def Obligations.ArgHoldsLastWrite : Prop :=
  ∀ (s : State) (v : Word) (rest : List HostAction),
    s.busy = false → s.pending = .write 0x08 .word v :: .read 0x08 .word :: rest →
    ∃ t, step s = .next t ∧ t = { s with arg := v, pending := t.pending } ∧
      step t = .next { t with pending := rest, responses := s.responses ++ [v] }

/-- R65: a read of a register other than PK_OUT and DK_OUT has no side effect, so a second read returns the same value. -/
def Obligations.ReadsIdempotentExceptPops : Prop :=
  ∀ (s : State) (off : Offset) (rest : List HostAction),
    s.busy = false → off ≠ 0x18 → off ≠ 0x1C → s.pending = .read off .word :: .read off .word :: rest →
    ∃ (t : State) (v : Word),
      step s = .next t ∧ t = { s with pending := t.pending, responses := s.responses ++ [v] } ∧
      step t = .next { s with pending := rest, responses := s.responses ++ [v, v] }

/-- R30, R31: a read of PK_OUT or DK_OUT returns bit 8 = 1 and the head and removes it, or 0 from an empty FIFO. -/
def Obligations.OutputReadsPopHead : Prop :=
  ∀ (s : State) (b : Byte) (q : List Byte),
    (s.packer.pkq = b :: q →
      readReg 0x18 s = (0x100#32 ||| b.setWidth 32, { s with packer := { s.packer with pkq := q } })) ∧
    (s.packer.pkq = [] → readReg 0x18 s = (0, s)) ∧
    (s.unpacker.dkq = b :: q →
      readReg 0x1C s = (0x100#32 ||| b.setWidth 32, { s with unpacker := { s.unpacker with dkq := q } })) ∧
    (s.unpacker.dkq = [] → readReg 0x1C s = (0, s))

/-- R27: the fields of STATUS are views of the state, and its reserved bits read 0. -/
def Obligations.StatusShowsState : Prop :=
  ∀ s : State, s.FifosFit →
    let w := (readReg 0x0C s).1
    w.getLsbD 0 = s.busy ∧
    (w.getLsbD 1 = true ↔ s.errcause ≠ .noError) ∧
    w.getLsbD 2 = s.tree.treeValid ∧
    w.getLsbD 3 = s.tableValid ∧
    w.getLsbD 4 = s.packer.active ∧
    (w.extractLsb' 5 2).toNat =
      (match s.unpacker.dstate with
       | .idle => 0
       | .accumulating => 1
       | .done => 2
       | .failed => 3) ∧
    (∀ k, 7 ≤ k → k ≤ 15 → w.getLsbD k = false) ∧
    (w.extractLsb' 16 7).toNat = s.packer.pkq.length ∧
    w.getLsbD 23 = false ∧
    (w.extractLsb' 24 5).toNat = s.unpacker.dkq.length ∧
    (∀ k, 29 ≤ k → w.getLsbD k = false)

/-- R28, R29, R32 to R37, R251: ERRCAUSE reads the code of the recorded cause under 24 zero bits; RESULT, TOTAL, DEC_COUNT and
DEC_TARGET read their elements; the fields of ENC_INFO, DEC_INFO and TREE_INFO read theirs, every other bit 0. -/
def Obligations.InfoRegistersShowState : Prop :=
  ∀ s : State,
    let c := (readReg 0x10 s).1
    (c.extractLsb' 0 8 =
        (match s.errcause with
         | .noError => 0x00#8
         | .illegalCmd => 0x01#8
         | .sequence => 0x02#8
         | .lenOverflow => 0x03#8
         | .missingCode => 0x04#8
         | .invalidTable => 0x05#8
         | .truncated => 0x06#8
         | .candOverflow => 0x07#8
         | .fifoOverflow => 0x08#8) ∧
      (∀ k, 8 ≤ k → c.getLsbD k = false)) ∧
    (readReg 0x14 s).1 = s.result ∧ (readReg 0x20 s).1 = s.fc.total ∧ (readReg 0x24 s).1 = s.unpacker.decCount ∧
    (readReg 0x28 s).1 = s.unpacker.decTarget ∧
    let e := (readReg 0x2C s).1
    let d := (readReg 0x30 s).1
    let r := (readReg 0x34 s).1
    (e.extractLsb' 0 8 = s.packer.acc ∧ e.extractLsb' 8 3 = s.packer.accLen ∧ (∀ k, 11 ≤ k → e.getLsbD k = false)) ∧
    (d.extractLsb' 0 8 = s.unpacker.candLen ∧ (∀ k, 8 ≤ k → d.getLsbD k = false)) ∧
    (r.extractLsb' 0 10 = s.tree.nodeCount ∧ r.extractLsb' 16 9 = s.tree.root ∧ r.getLsbD 31 = s.tree.rootValid ∧
      (∀ k, 10 ≤ k → k ≤ 15 → r.getLsbD k = false) ∧ (∀ k, 25 ≤ k → k ≤ 30 → r.getLsbD k = false))

/-- R71: while BUSY = 1 a read of STATUS is performed at once and shows BUSY = 1, and any access but a read of STATUS or ID is
held: it stays pending and gets no answer.  That BUSY then returns to 0 in one step is the model's choice
(notes/assumptions/5.md). -/
def Obligations.BusyHoldsAccesses : Prop :=
  ∀ (s : State) (a : HostAction) (rest : List HostAction),
    s.busy = true → s.pending = a :: rest →
    (a = .read 0x0C .word →
      ∃ v : Word, v.getLsbD 0 = true ∧ step s = .next { s with pending := rest, responses := s.responses ++ [v] }) ∧
    (a = .read 0x00 .word →
      step s = .next { s with pending := rest, responses := s.responses ++ [0x48554601#32] }) ∧
    (a ≠ .read 0x0C .word → a ≠ .read 0x00 .word → a ≠ .reset → step s = .next { s with busy := false })

/-! ### Reset and control -/

/-- R282: what every register reads after reset, whatever the FIFO depths. -/
def Obligations.RegistersAfterReset : Prop :=
  ∀ (c : Config) (off : Offset),
    (readReg off (State.resetWith c)).1 = (if off = 0x00 then 0x48554601#32 else 0) ∧
    (readReg off (State.resetWith c)).2 = State.resetWith c

/-- R121, R280, R281: the reset input and SOFT_RESET have the same effect: every element takes its reset value.  That the
parameters, the host's pending actions and its answers, which are no elements of R52, stay is the model's choice
(notes/assumptions/1.md, 2.md, 3.md). -/
def Obligations.ResetClearsEverything : Prop :=
  ∀ s : State, perform .reset s = exec .softReset s ∧
    exec .softReset s = .next
      { config := s.config, pending := s.pending, responses := s.responses
        arg := 0, result := 0, errcause := .noError, busy := false
        fc := { freq := Arr.replicate 256 0, total := 0 }
        tree := { node := Arr.replicate 511 { kind := .leaf, weight := 0, symbol := 0, left := 0, right := 0 },
                  nodeCount := 0, root := 0, rootValid := false, treeValid := false }
        table := Arr.replicate 256 { len := 0, bits := 0 }, tableValid := false
        packer := { active := false, acc := 0, accLen := 0, pkq := [] }
        unpacker := { dstate := .idle, cand := 0, candLen := 0, decCount := 0, decTarget := 0, dkq := [] } }

/-- R120, R122, R257: issued as their command words, NOP changes nothing and CLR_ERR only ERRCAUSE, in every state. -/
def Obligations.NopAndClrErrRun : Prop :=
  ∀ s : State,
    exec .nop s = .next s ∧ exec .clrErr s = .next { s with errcause := .noError } ∧
    issue 0x00000000#32 s = .next { s with busy := false } ∧
    issue 0x02000000#32 s = .next { s with busy := false, errcause := .noError }

/-! ### Errors -/

/-- R121, R122, R253, R258: a recorded cause stays the first one: no command word changes it but CLR_ERR and SOFT_RESET, which
clear it. -/
def Obligations.FirstErrorSticks : Prop :=
  ∀ (w : Word) (s : State), s.errcause ≠ .noError →
    ∃ t, issue w s = .next t ∧
      t.errcause = (if w = 0x01000000#32 ∨ w = 0x02000000#32 then .noError else s.errcause)

/-- R98: while an error is recorded a gated command changes no state; an ungated command runs the same with an error recorded
as without, and raises none. -/
def Obligations.GateDiscardsGatedCommandsOnly : Prop :=
  (∀ (i : Instr) (s : State), i.isGated = true → s.errcause ≠ .noError → exec i s = .next s) ∧
  (∀ (i : Instr) (s : State), i.isGated = false →
    ∃ t, exec i s = .next t ∧ (t.errcause = s.errcause ∨ t.errcause = .noError) ∧
      ∀ e, ∃ t', exec i { s with errcause := e } = .next t' ∧ { t' with errcause := t.errcause } = t) ∧
  (∀ i : Instr, i.isGated = false ↔
    i = .nop ∨ i = .softReset ∨ i = .clrErr ∨ (∃ x, i = .fcRead x) ∨ (∃ x, i = .tbReadw x) ∨ (∃ x, i = .tbReadn x) ∨
    (∃ x, i = .ctReadlen x) ∨ (∃ x k, i = .ctReadbits x k))

/-- R254, R255: a command that raises an error leaves the state as it was but for ERRCAUSE and the abort effects of its cause.
For CAND_OVERFLOW, which DE_BYTE alone raises, the candidate keeps its 255 bits (R223): the old ones and the byte's bits up to the
255th; for INVALID_TABLE the statement is about CT_VALIDATE, since CA_ASSIGN raises it in no state a run reaches (R170,
notes/assumptions/8.md). -/
def Obligations.ErrorEntryIsPrecise : Prop :=
  ∀ (i : Instr) (s t : State), s.errcause = .noError → exec i s = .next t → t.errcause ≠ .noError →
    match t.errcause with
    | .sequence | .lenOverflow | .fifoOverflow | .illegalCmd | .noError => t = { s with errcause := t.errcause }
    | .missingCode =>
      t = { s with errcause := .missingCode, packer := { active := false, acc := 0, accLen := 0, pkq := [] } }
    | .truncated =>
      t = { s with errcause := .truncated, unpacker := { s.unpacker with dstate := .failed, dkq := [] } }
    | .candOverflow =>
      t = { s with errcause := .candOverflow,
                   unpacker := { s.unpacker with
                     dstate := .failed, dkq := [], candLen := 255, cand := t.unpacker.cand } } ∧
      ∃ byte, i = .deByte byte ∧
        t.unpacker.candBits = s.unpacker.candBits ++ (byteBits byte).take (255 - s.unpacker.candLen.toNat)
    | .invalidTable => i ≠ .caAssign → t = { s with errcause := .invalidTable, tableValid := false }

/-- R255, R257: after SEQUENCE, LEN_OVERFLOW or FIFO_OVERFLOW, CLR_ERR gives back the very state before the refused command,
so a command reissued once the host has made room performs as if it had not been refused. -/
def Obligations.RefusedCommandLeavesNoTrace : Prop :=
  ∀ (i : Instr) (s t : State), s.errcause = .noError → exec i s = .next t →
    (t.errcause = .sequence ∨ t.errcause = .lenOverflow ∨ t.errcause = .fifoOverflow) →
    exec .clrErr t = .next s

/-- R26, R29, R44 and the units' rules: which commands can change which part of the state; SOFT_RESET apart, every other part
is left as it was. -/
def Obligations.CommandsWriteOnlyTheirUnit : Prop :=
  ∀ (i : Instr) (s t : State), exec i s = .next t → i ≠ .softReset →
    t.arg = s.arg ∧ t.config = s.config ∧ t.pending = s.pending ∧ t.responses = s.responses ∧ t.busy = s.busy ∧
    (isQuery i = false → t.result = s.result) ∧
    (isQuery i = true → t = { s with result := t.result }) ∧
    ((∀ x, i ≠ .fcCount x) → (∀ x, i ≠ .fcSet x) → i ≠ .fcClear →
      t.fc = s.fc ∧ (i ≠ .tbBuild → t.tree = s.tree)) ∧
    (i ≠ .tbBuild → { t.tree with treeValid := s.tree.treeValid } = s.tree) ∧
    (isTableWrite i = false → t.table = s.table ∧ t.tableValid = s.tableValid) ∧
    (i ≠ .enStart → i ≠ .enFlush → (∀ x, i ≠ .enSym x) → t.packer = s.packer) ∧
    (i ≠ .deStart → i ≠ .deEnd → (∀ x, i ≠ .deByte x) → t.unpacker = s.unpacker)

/-! ### Frequency counter -/

/-- R130: FC_CLEAR makes every count and TOTAL 0 and the tree stale, and changes nothing else. -/
def Obligations.FcClearStartsEmptyTable : Prop :=
  ∀ s : State, s.errcause = .noError →
    ∃ t, exec .fcClear s = .next t ∧ (∀ x, t.freqOf x = 0) ∧ t.fc.total = 0 ∧ t.tree.treeValid = false ∧
      t = { s with fc := t.fc, tree := { s.tree with treeValid := false } }

/-- R131: FC_COUNT adds one to the symbol's count and to TOTAL, exactly, or raises LEN_OVERFLOW at 2^32 − 1. -/
def Obligations.FcCountCountsOneSymbol : Prop :=
  ∀ (s : State) (x : Symbol), s.errcause = .noError → s.CountsAgree →
    (s.fc.total = 0xFFFFFFFF#32 → exec (.fcCount x) s = .next { s with errcause := .lenOverflow }) ∧
    (s.fc.total ≠ 0xFFFFFFFF#32 →
      ∃ t, exec (.fcCount x) s = .next t ∧
        (t.freqOf x).toNat = (s.freqOf x).toNat + 1 ∧ (∀ y, y ≠ x → t.freqOf y = s.freqOf y) ∧
        t.fc.total.toNat = s.fc.total.toNat + 1 ∧ t.CountsAgree ∧
        t = { s with fc := t.fc, tree := { s.tree with treeValid := false } })

/-- R132: FC_SET makes the symbol's count ARG and TOTAL the exact new sum, or raises LEN_OVERFLOW if that passes 2^32 − 1. -/
def Obligations.FcSetReplacesCount : Prop :=
  ∀ (s : State) (x : Symbol), s.errcause = .noError → s.CountsAgree →
    (s.fc.total.toNat - (s.freqOf x).toNat + s.arg.toNat > 2 ^ 32 - 1 →
      exec (.fcSet x) s = .next { s with errcause := .lenOverflow }) ∧
    (s.fc.total.toNat - (s.freqOf x).toNat + s.arg.toNat ≤ 2 ^ 32 - 1 →
      ∃ t, exec (.fcSet x) s = .next t ∧
        t.freqOf x = s.arg ∧ (∀ y, y ≠ x → t.freqOf y = s.freqOf y) ∧
        t.fc.total.toNat + (s.freqOf x).toNat = s.fc.total.toNat + s.arg.toNat ∧ t.CountsAgree ∧
        t = { s with fc := t.fc, tree := { s.tree with treeValid := false } })

/-- R41: after every step, TOTAL = Σ FREQ[s]. -/
def Obligations.StepKeepsCountInvariant : Prop :=
  ∀ s t : State, s.CountsAgree → step s = .next t → t.CountsAgree

/-! ### Queries -/

/-- R133, R156, R157, R178, R179: the queries answer in RESULT and change nothing else, in every state. -/
def Obligations.QueriesAnswerInResult : Prop :=
  ∀ (s : State) (x : Symbol) (idx : NodeIndex) (k : ChunkIndex),
    exec (.fcRead x) s = .next { s with result := s.freqOf x } ∧
    (∃ t, exec (.tbReadw idx) s = .next t ∧ t = { s with result := t.result } ∧
      (idx.toNat < s.tree.nodeCount.toNat → t.result = (s.tree.at idx.toNat).weight) ∧
      (s.tree.nodeCount.toNat ≤ idx.toNat → t.result = 0)) ∧
    (∃ t, exec (.tbReadn idx) s = .next t ∧ t = { s with result := t.result } ∧
      (s.tree.nodeCount.toNat ≤ idx.toNat → t.result = 0) ∧
      (idx.toNat < s.tree.nodeCount.toNat → (s.tree.at idx.toNat).kind = .leaf →
        t.result.toNat = (s.tree.at idx.toNat).symbol.toNat) ∧
      (idx.toNat < s.tree.nodeCount.toNat → (s.tree.at idx.toNat).kind = .internal →
        t.result.toNat = 2 ^ 31 + (s.tree.at idx.toNat).left.toNat * 2 ^ 16 + (s.tree.at idx.toNat).right.toNat)) ∧
    (∃ t, exec (.ctReadlen x) s = .next t ∧ t = { s with result := t.result } ∧
      t.result.toNat = (s.entryOf x).len.toNat) ∧
    (∃ t, exec (.ctReadbits x k) s = .next t ∧ t = { s with result := t.result } ∧
      ∀ j, j < 32 → t.result.getLsbD j = (s.entryOf x).bits.getLsbD (32 * k.toNat + j))

/-! ### Tree builder -/

/-- R151, R154, R155: TB_BUILD makes one leaf per symbol with a count, in ascending order from index 0, NODE_COUNT = 2n − 1 and
ROOT = 2n − 2 (all 0 and no root for n = 0), clears every entry beyond, and changes only the tree. -/
def Obligations.TbBuildAllocatesLeaves : Prop :=
  ∀ s : State, s.errcause = .noError →
    ∃ t, exec .tbBuild s = .next t ∧ t = { s with tree := t.tree } ∧ t.tree.treeValid = true ∧
      (∀ (k : Nat) (x : Symbol), (presentSymbols s.fc.freq)[k]? = some x →
        t.tree.at k = { kind := .leaf, weight := s.freqOf x, symbol := x, left := 0, right := 0 }) ∧
      (leafCount s.fc.freq = 0 →
        t.tree.nodeCount = 0 ∧ t.tree.root = 0 ∧ t.tree.rootValid = false) ∧
      (1 ≤ leafCount s.fc.freq →
        t.tree.nodeCount.toNat = 2 * leafCount s.fc.freq - 1 ∧ t.tree.root.toNat = 2 * leafCount s.fc.freq - 2 ∧
        t.tree.rootValid = true) ∧
      (∀ k, t.tree.nodeCount.toNat ≤ k →
        t.tree.at k = { kind := .leaf, weight := 0, symbol := 0, left := 0, right := 0 })

/-- R152, R153: each internal node joins the two nodes of least key that wait in the queue when it is created: RIGHT the first
extracted, LEFT the second, the weight their sum. -/
def Obligations.TbBuildMergesLeastKeys : Prop :=
  ∀ s t : State, s.errcause = .noError → exec .tbBuild s = .next t →
    ∀ m, leafCount s.fc.freq ≤ m → m < t.tree.nodeCount.toNat →
      let a := (t.tree.at m).right.toNat
      let b := (t.tree.at m).left.toNat
      (t.tree.at m).kind = .internal ∧ (t.tree.at m).symbol = 0 ∧
      (t.tree.at m).weight = (t.tree.at a).weight + (t.tree.at b).weight ∧
      t.tree.Waiting m a ∧ t.tree.Waiting m b ∧ t.tree.KeyBelow a b ∧
      ∀ j, t.tree.Waiting m j → j ≠ a → j ≠ b → t.tree.KeyBelow b j

/-- R42, R153, R158: in the built tree every node but the root is the child of exactly one node, on one side only. -/
def Obligations.EveryNodeHasOneParent : Prop :=
  ∀ s t : State, s.errcause = .noError → exec .tbBuild s = .next t →
    (∀ j, j < t.tree.root.toNat → ∃ k, t.tree.IsChild k j ∧ ∀ k', t.tree.IsChild k' j → k' = k) ∧
    (∀ k, ¬ t.tree.IsChild k t.tree.root.toNat ∨ t.tree.rootValid = false) ∧
    (∀ k j, t.tree.IsChild k j → j < k ∧ (t.tree.at k).left ≠ (t.tree.at k).right)

/-- R134, R154: no weight wraps: a node's weight is the exact sum of its children's, and the root's weight is TOTAL. -/
def Obligations.RootWeightIsTotal : Prop :=
  ∀ s t : State, s.errcause = .noError → s.CountsAgree → exec .tbBuild s = .next t → t.tree.rootValid = true →
    (t.tree.at t.tree.root.toNat).weight = s.fc.total ∧
    ∀ k, k < t.tree.nodeCount.toNat → (t.tree.at k).kind = .internal →
      (t.tree.at k).weight.toNat =
        (t.tree.at (t.tree.at k).left.toNat).weight.toNat + (t.tree.at (t.tree.at k).right.toNat).weight.toNat

/-! ### Code table -/

/-- R177: the validity check is prefix-freedom of the codes as bit strings. -/
def Obligations.ValidityIsPrefixFreedom : Prop :=
  ∀ t : CodeTable, t.valid = true ↔ t.PrefixFree

/-- R180: the matcher returns the least symbol whose code is the candidate, or nothing if there is none; under a valid table at
most one symbol matches. -/
def Obligations.LookupFindsLeastMatch : Prop :=
  ∀ (t : CodeTable) (L : Nat) (c : CodeBits), 1 ≤ L → L ≤ 255 →
    (t.lookup L c = none ↔ ∀ x, ¬ t.Matches L c x) ∧
    (∀ x, t.lookup L c = some x ↔ t.Matches L c x ∧ ∀ y, t.Matches L c y → x.toNat ≤ y.toNat) ∧
    (t.valid = true → ∀ x y, t.Matches L c x → t.Matches L c y → x = y)

/-- R170: CA_ASSIGN refuses a stale tree with SEQUENCE; else it writes the table alone, and TABLE_VALID tells whether the
table it wrote is valid.  The case of a table that is not valid arises in no state a run reaches; that the written table stays
then is the model's choice of R170's pseudocode over R255's "nothing else" (notes/assumptions/8.md). -/
def Obligations.CaAssignWritesOnlyTheTable : Prop :=
  ∀ s : State, s.errcause = .noError → s.sessionActive = false →
    (s.tree.treeValid = false → exec .caAssign s = .next { s with errcause := .sequence }) ∧
    (s.tree.treeValid = true →
      ∃ t, exec .caAssign s = .next t ∧
        t = { s with table := t.table, tableValid := t.table.valid,
                     errcause := if t.table.valid then .noError else .invalidTable })

/-- R172: a lone symbol gets the code "0" and the empty tree gives the empty table; both are valid. -/
def Obligations.DegenerateTreesGiveValidTables : Prop :=
  ∀ s : State, s.errcause = .noError → s.sessionActive = false → s.TreeCurrent → s.tree.treeValid = true →
    (presentSymbols s.fc.freq = [] →
      ∃ t, exec .caAssign s = .next t ∧ t.tableValid = true ∧ t.errcause = .noError ∧ ∀ x, t.table.codeOf x = []) ∧
    (∀ x, presentSymbols s.fc.freq = [x] →
      ∃ t, exec .caAssign s = .next t ∧ t.tableValid = true ∧ t.errcause = .noError ∧
        t.table.codeOf x = [false] ∧ ∀ y, y ≠ x → t.table.codeOf y = [])

/-- R171: the code of a leaf is the branch bits from the root down to it, 0 for LEFT and 1 for RIGHT, the first at bit 0 of a
code register that is 0 above them. -/
def Obligations.AssignedCodesAreLeafPaths : Prop :=
  ∀ s : State, s.errcause = .noError → s.sessionActive = false → s.TreeCurrent → s.tree.treeValid = true →
    2 ≤ leafCount s.fc.freq →
    ∃ t, exec .caAssign s = .next t ∧
      ∀ (bits : List Bool) (n : Node),
        s.tree.walk s.tree.root bits = some n → n.kind = .leaf →
          t.table.codeOf n.symbol = bits ∧ ∀ k, bits.length ≤ k → (t.entryOf n.symbol).bits.getLsbD k = false

/-- R170, R182 items 1 and 2: on the tree of FREQ, CA_ASSIGN always gives a valid table, with a code for exactly the symbols
that occur. -/
def Obligations.CaAssignAlwaysGivesValidTable : Prop :=
  ∀ s : State, s.errcause = .noError → s.sessionActive = false → s.TreeCurrent → s.tree.treeValid = true →
    ∃ t, exec .caAssign s = .next t ∧ t.errcause = .noError ∧ t.tableValid = true ∧ t.table.PrefixFree ∧
      ∀ x, t.table.codeOf x ≠ [] ↔ s.freqOf x ≠ 0

/-- R173 to R175: CT_CLEAR empties the table; CT_SETLEN writes one length and keeps the bits; CT_SETBITS writes one chunk from
ARG (bit 255 dropped) and keeps the length and the other bits.  Each clears TABLE_VALID and changes nothing else. -/
def Obligations.TableWritesChangeOneEntry : Prop :=
  ∀ (s : State) (x : Symbol) (len : CodeLen) (k : ChunkIndex), s.errcause = .noError → s.sessionActive = false →
    (∃ t, exec .ctClear s = .next t ∧ t = { s with table := t.table, tableValid := false } ∧
      ∀ y, t.entryOf y = { len := 0, bits := 0 }) ∧
    (∃ t, exec (.ctSetlen x len) s = .next t ∧ t = { s with table := t.table, tableValid := false } ∧
      t.entryOf x = { len := len, bits := (s.entryOf x).bits } ∧ ∀ y, y ≠ x → t.entryOf y = s.entryOf y) ∧
    (∃ t, exec (.ctSetbits x k) s = .next t ∧ t = { s with table := t.table, tableValid := false } ∧
      (t.entryOf x).len = (s.entryOf x).len ∧
      (∀ j, j < 255 → (t.entryOf x).bits.getLsbD j =
        if j / 32 = k.toNat then s.arg.getLsbD (j % 32) else (s.entryOf x).bits.getLsbD j) ∧
      ∀ y, y ≠ x → t.entryOf y = s.entryOf y)

/-- R176: CT_VALIDATE sets TABLE_VALID for a prefix-free table; for any other it clears it and raises INVALID_TABLE.  The table
is left as it was. -/
def Obligations.CtValidateChecksPrefixFreedom : Prop :=
  ∀ s : State, s.errcause = .noError → s.sessionActive = false →
    (s.table.PrefixFree → exec .ctValidate s = .next { s with tableValid := true }) ∧
    (¬ s.table.PrefixFree → exec .ctValidate s = .next { s with tableValid := false, errcause := .invalidTable })

/-- R181: while an encode session or an ACCUMULATING decode session is open the five table-writing commands raise SEQUENCE and
write nothing; so no command but SOFT_RESET changes the table or its validity then.  DONE and FAILED do not block them. -/
def Obligations.SessionGuardFreezesTable : Prop :=
  (∀ (i : Instr) (s : State), isTableWrite i = true → s.errcause = .noError →
    (s.packer.active = true ∨ s.unpacker.dstate = .accumulating) →
    exec i s = .next { s with errcause := .sequence }) ∧
  (∀ (i : Instr) (s t : State), exec i s = .next t → i ≠ .softReset →
    (s.packer.active = true ∨ s.unpacker.dstate = .accumulating) →
    t.table = s.table ∧ t.tableValid = s.tableValid) ∧
  (∀ (i : Instr) (s : State), isTableWrite i = true → s.errcause = .noError → s.packer.active = false →
    s.unpacker.dstate ≠ .accumulating → (i = .caAssign → s.tree.treeValid = true) →
    ∃ t, exec i s = .next t ∧ t.errcause ≠ .sequence)

/-! ### Bit packer -/

/-- R200: EN_START opens an empty session under a validated table, whatever session was open, and else raises SEQUENCE. -/
def Obligations.EnStartOpensSession : Prop :=
  ∀ s : State, s.errcause = .noError →
    (s.tableValid = false → exec .enStart s = .next { s with errcause := .sequence }) ∧
    (s.tableValid = true →
      ∃ t, exec .enStart s = .next t ∧ t = { s with packer := t.packer } ∧ t.packer.active = true ∧
        t.packer.pkq = [] ∧ t.packer.bits = [] ∧ t.packer.acc = 0)

/-- R201, R203: EN_SYM appends the symbol's code to the bits the packer holds, pushing (ACC_LEN + L) div 8 bytes; its refusals
come in the rule's order: SEQUENCE, MISSING_CODE with AbortEncode, FIFO_OVERFLOW. -/
def Obligations.EnSymAppendsCode : Prop :=
  ∀ (s : State) (x : Symbol), s.errcause = .noError →
    let L := (s.entryOf x).len.toNat
    let room := s.config.pkDepth.val - s.packer.pkq.length
    (s.packer.active = false → exec (.enSym x) s = .next { s with errcause := .sequence }) ∧
    (s.packer.active = true → L = 0 →
      exec (.enSym x) s = .next
        { s with errcause := .missingCode, packer := { active := false, acc := 0, accLen := 0, pkq := [] } }) ∧
    (s.packer.active = true → L ≠ 0 → (s.packer.accLen.toNat + L) / 8 > room →
      exec (.enSym x) s = .next { s with errcause := .fifoOverflow }) ∧
    (s.packer.active = true → L ≠ 0 → (s.packer.accLen.toNat + L) / 8 ≤ room →
      ∃ t, exec (.enSym x) s = .next t ∧ t = { s with packer := t.packer } ∧ t.packer.active = true ∧
        t.packer.bits = s.packer.bits ++ s.table.codeOf x ∧ s.packer.pkq <+: t.packer.pkq ∧
        t.packer.pkq.length = s.packer.pkq.length + (s.packer.accLen.toNat + L) / 8 ∧
        t.packer.accLen.toNat = (s.packer.accLen.toNat + L) % 8 ∧
        (s.packer.acc.toNat < 2 ^ s.packer.accLen.toNat → t.packer.acc.toNat < 2 ^ t.packer.accLen.toNat))

/-- R202: EN_FLUSH pushes the pending bits as one byte, zero-padded on the high end, and closes the session, keeping PKQ. -/
def Obligations.EnFlushPadsAndCloses : Prop :=
  ∀ s : State, s.errcause = .noError → s.PackerClean →
    (s.packer.active = false → exec .enFlush s = .next { s with errcause := .sequence }) ∧
    (s.packer.active = true → s.packer.accLen ≠ 0 → s.packer.pkq.length = s.config.pkDepth.val →
      exec .enFlush s = .next { s with errcause := .fifoOverflow }) ∧
    (s.packer.active = true → ¬ (s.packer.accLen ≠ 0 ∧ s.packer.pkq.length = s.config.pkDepth.val) →
      ∃ (t : State) (last : List Byte), exec .enFlush s = .next t ∧ t = { s with packer := t.packer } ∧
        t.packer.active = false ∧ t.packer.acc = 0 ∧ t.packer.accLen = 0 ∧ t.packer.pkq = s.packer.pkq ++ last ∧
        PacksTo last ((byteBits s.packer.acc).take s.packer.accLen.toNat))

/-- R64, R204: the bytes drained from an encode session of any input are the PackedByteStream of its EncodedBitstream: bit k is
bit (k mod 8) of byte k div 8, in ceil(B/8) bytes with 0 padding; no error is raised. -/
def Obligations.EncodeSessionPacksBitstream : Prop :=
  ∀ (s : State) (xs : List Symbol), s.errcause = .noError → s.tableValid = true → (∀ x ∈ xs, s.table.codeOf x ≠ []) →
    PacksTo (encodeStream xs s).1 (s.table.bitstream xs) ∧
    (encodeStream xs s).2.errcause = .noError ∧ (encodeStream xs s).2.packer.active = false ∧
    (encodeStream xs s).2.packer.pkq = []

/-! ### Bit unpacker -/

/-- R220: DE_START opens a decode session of ARG symbols under a validated table, DONE at once for 0, and else raises
SEQUENCE. -/
def Obligations.DeStartOpensSession : Prop :=
  ∀ s : State, s.errcause = .noError →
    (s.tableValid = false → exec .deStart s = .next { s with errcause := .sequence }) ∧
    (s.tableValid = true →
      ∃ t, exec .deStart s = .next t ∧ t = { s with unpacker := t.unpacker } ∧
        t.unpacker.decTarget = s.arg ∧ t.unpacker.decCount = 0 ∧ t.unpacker.cand = 0 ∧ t.unpacker.candLen = 0 ∧
        t.unpacker.dkq = [] ∧ (s.arg = 0 → t.unpacker.dstate = .done) ∧ (s.arg ≠ 0 → t.unpacker.dstate = .accumulating))

/-- R223: one bit joins the candidate; if the candidate is now a code its (least) symbol is queued and counted and the
candidate empties, ending the session at DEC_TARGET; a 255-bit candidate that is no code overflows. -/
def Obligations.DecodeBitMatchesCandidate : Prop :=
  ∀ (t : CodeTable) (u : Unpacker) (b : Bool), u.candLen.toNat ≤ 254 →
    (∀ x, t.codeOf x = u.candBits ++ [b] → (∀ y, t.codeOf y = u.candBits ++ [b] → x.toNat ≤ y.toNat) →
      u.decodeBit t b = .ok
        { dstate := if u.decCount + 1 = u.decTarget then .done else u.dstate
          cand := 0, candLen := 0, decCount := u.decCount + 1, decTarget := u.decTarget, dkq := u.dkq ++ [x] }) ∧
    ((∀ x, t.codeOf x ≠ u.candBits ++ [b]) →
      ∃ u' : Unpacker,
        u'.candBits = u.candBits ++ [b] ∧ u' = { u with cand := u'.cand, candLen := u'.candLen } ∧
        u.decodeBit t b = if u.candLen.toNat = 254 then .overflow u' else .ok u')

/-- R221, R223: DE_BYTE in DONE changes nothing; in IDLE or FAILED it raises SEQUENCE; with fewer than 8 free entries it raises
FIFO_OVERFLOW and consumes nothing.  Else it takes the byte's bits in order: the queued symbols' codes and the candidate it
leaves are exactly the old candidate and the bits taken, all eight unless the session ended, and every symbol is queued at the
first match (`CodeTable.FirstMatches`); or no candidate up to the 255th bit is a code, and the candidate, which keeps these 255
bits, overflowed. -/
def Obligations.DeByteConsumesCodes : Prop :=
  ∀ (s : State) (byte : Byte), s.errcause = .noError →
    (s.unpacker.dstate = .done → exec (.deByte byte) s = .next s) ∧
    (s.unpacker.dstate = .idle ∨ s.unpacker.dstate = .failed →
      exec (.deByte byte) s = .next { s with errcause := .sequence }) ∧
    (s.unpacker.dstate = .accumulating → s.config.dkDepth.val < s.unpacker.dkq.length + 8 →
      exec (.deByte byte) s = .next { s with errcause := .fifoOverflow }) ∧
    (s.unpacker.dstate = .accumulating → s.unpacker.dkq.length + 8 ≤ s.config.dkDepth.val → s.UnpackerClean →
      ∃ t, exec (.deByte byte) s = .next t ∧ t = { s with unpacker := t.unpacker, errcause := t.errcause } ∧
        t.unpacker.decTarget = s.unpacker.decTarget ∧
        ((t.errcause = .noError ∧
          ∃ (xs : List Symbol) (used : Nat),
            used ≤ 8 ∧ xs.length ≤ used ∧ t.unpacker.dkq = s.unpacker.dkq ++ xs ∧
            t.unpacker.decCount.toNat = s.unpacker.decCount.toNat + xs.length ∧
            s.unpacker.candBits ++ (byteBits byte).take used = s.table.bitstream xs ++ t.unpacker.candBits ∧
            s.table.FirstMatches s.unpacker.candLen.toNat xs t.unpacker.candBits ∧
            ((t.unpacker.dstate = .accumulating ∧ used = 8 ∧ t.unpacker.candLen.toNat ≤ 254 ∧
                t.unpacker.decCount.toNat < s.unpacker.decTarget.toNat) ∨
              (t.unpacker.dstate = .done ∧ t.unpacker.decCount = s.unpacker.decTarget ∧ t.unpacker.candLen = 0))) ∨
         (t.errcause = .candOverflow ∧ t.unpacker.dstate = .failed ∧ t.unpacker.dkq = [] ∧ t.unpacker.candLen = 255 ∧
          t.unpacker.decCount = s.unpacker.decCount ∧ s.unpacker.candLen.toNat + 8 ≥ 255 ∧
          t.unpacker.candBits = s.unpacker.candBits ++ (byteBits byte).take (255 - s.unpacker.candLen.toNat) ∧
          ∀ x k, s.unpacker.candLen.toNat < k → s.table.codeOf x ≠ t.unpacker.candBits.take k)))

/-- R222: DE_END succeeds in DONE, raises SEQUENCE in IDLE and FAILED, and in ACCUMULATING ends the session with TRUNCATED,
whether or not a candidate is pending, discarding the queued symbols. -/
def Obligations.DeEndReportsTruncation : Prop :=
  ∀ s : State, s.errcause = .noError →
    (s.unpacker.dstate = .done → exec .deEnd s = .next s) ∧
    (s.unpacker.dstate = .idle ∨ s.unpacker.dstate = .failed →
      exec .deEnd s = .next { s with errcause := .sequence }) ∧
    (s.unpacker.dstate = .accumulating →
      exec .deEnd s = .next
        { s with errcause := .truncated, unpacker := { s.unpacker with dstate := .failed, dkq := [] } })

/-- R224: DSTATE changes only along the rows of the transition table. -/
def Obligations.DecoderFollowsTransitionTable : Prop :=
  ∀ (i : Instr) (s t : State), exec i s = .next t → t.unpacker.dstate ≠ s.unpacker.dstate →
    match t.unpacker.dstate with
    | .idle => i = .softReset
    | .accumulating => i = .deStart ∧ s.tableValid = true ∧ s.arg ≠ 0
    | .done =>
      (i = .deStart ∧ s.tableValid = true ∧ s.arg = 0) ∨
      ((∃ b, i = .deByte b) ∧ s.unpacker.dstate = .accumulating ∧ t.unpacker.decCount = s.unpacker.decTarget)
    | .failed =>
      s.unpacker.dstate = .accumulating ∧ t.unpacker.dkq = [] ∧
      ((i = .deEnd ∧ t.errcause = .truncated) ∨
       ((∃ b, i = .deByte b) ∧ t.errcause = .candOverflow ∧ t.unpacker.candLen = 255))

/-! ### Sessions -/

/-- R225: decoding the drained bytes of an encode session under the same table, with any bytes after them, gives the input
back, ends DONE and raises no error. -/
def Obligations.DecodeInvertsEncodeSession : Prop :=
  ∀ (s : State) (xs : List Symbol) (extra : List Byte),
    s.errcause = .noError → s.tableValid = true → s.TableChecked → (∀ x ∈ xs, s.table.codeOf x ≠ []) →
    xs.length < 2 ^ 32 →
    let e := encodeStream xs s
    let d := decodeStream (BitVec.ofNat 32 xs.length) (e.1 ++ extra) e.2
    d.1 = xs ∧ d.2.errcause = .noError ∧ d.2.unpacker.dstate = .done

/-- R225: supplying fewer than the encoded bytes ends in TRUNCATED at DE_END. -/
def Obligations.ShortStreamEndsTruncated : Prop :=
  ∀ (s : State) (xs : List Symbol) (m : Nat),
    s.errcause = .noError → s.tableValid = true → s.TableChecked → (∀ x ∈ xs, s.table.codeOf x ≠ []) →
    xs.length < 2 ^ 32 → m < (encodeStream xs s).1.length →
    let e := encodeStream xs s
    let d := decodeStream (BitVec.ofNat 32 xs.length) (e.1.take m) e.2
    d.2.errcause = .truncated ∧ d.2.unpacker.dstate = .failed ∧ d.2.unpacker.dkq = []

/-- R266: the encode sequence of the empty input, and a decode of 0 symbols, raise no error and give nothing. -/
def Obligations.EmptyInputRaisesNoError : Prop :=
  ∀ s : State, s.errcause = .noError → s.sessionActive = false →
    let t := performAll [command .fcClear, command .tbBuild, command .caAssign, command .enStart, command .enFlush] s
    let u := performAll [setArg 0, command .deStart] t
    t.errcause = .noError ∧ t.fc.total = 0 ∧ t.packer.pkq = [] ∧ t.tableValid = true ∧
    u.unpacker.dstate = .done ∧ u.unpacker.dkq = [] ∧ performAll [command .deEnd] u = u ∧ u.errcause = .noError

/-- R289: with its FIFO drained, no EN_SYM, EN_FLUSH or DE_BYTE raises FIFO_OVERFLOW, for any legal depths. -/
def Obligations.DrainedFifosNeverOverflow : Prop :=
  ∀ (s : State) (x : Symbol), s.errcause = .noError →
    (s.packer.pkq = [] →
      (∃ t, exec (.enSym x) s = .next t ∧ t.errcause ≠ .fifoOverflow) ∧
      (∃ t, exec .enFlush s = .next t ∧ t.errcause ≠ .fifoOverflow)) ∧
    (s.unpacker.dkq = [] → ∃ t, exec (.deByte x) s = .next t ∧ t.errcause ≠ .fifoOverflow)

/-- R102, R286: LOADCODE leaves the symbol with exactly the stored code, every other entry as it was, and no error. -/
def Obligations.LoadcodeLoadsEntry : Prop :=
  ∀ (s : State) (x : Symbol) (len : CodeLen) (bits : CodeBits), s.errcause = .noError → s.sessionActive = false →
    let t := performAll (loadCode x len bits) s
    t.table.codeOf x = (List.range len.toNat).map bits.getLsbD ∧ (∀ y, y ≠ x → t.entryOf y = s.entryOf y) ∧
    t.errcause = .noError ∧ t.tableValid = false

/-- R285, R158 item 4: the table re-derived from a stored FrequencyTable is the table built from the input. -/
def Obligations.RederivedTableIsTheSame : Prop :=
  ∀ (s : State) (xs : List Symbol), s.errcause = .noError → s.sessionActive = false → xs.length ≤ maxTotal →
    let t := performAll (buildTable xs) s
    let u := performAll (rebuildTable ((presentSymbols t.fc.freq).map fun x => (x, t.freqOf x))) s
    u.table = t.table ∧ u.tableValid = t.tableValid ∧ u.fc = t.fc ∧ u.tree = t.tree

/-! ### The invariant -/

/-- R41 to R48, R52: the state after reset meets the invariant, whatever the FIFO depths. -/
def Obligations.ResetMeetsInvariant : Prop :=
  ∀ c : Config, (State.resetWith c).Inv

/-- R41 to R48, R71: every step from a state that meets the invariant, of any host action, gives one that does: TOTAL is the sum
of the counts, the FIFOs fit, the arena has its shape, a valid tree is FREQ's, a valid table is prefix-free and every session
has one, ACC and CAND are clean, DSTATE agrees with the counters, and BUSY = 0. -/
def Obligations.StepKeepsInvariant : Prop :=
  ∀ s t : State, s.Inv → step s = .next t → t.Inv
end

