-- ==== Sys2Proof/Laws/Operands.lean ====
section
/-! SUPPORT. The operand forms: reading back a written entry, single bits, the low bits of a code, the chunks of a code
register, and the list of all symbols. -/

namespace Sys2Proof.Laws

open Sys2Proof Sys2Proof.Machine

variable {α : Type}

@[simp] theorem readSym_writeSym_same (v : Arr α 256) (x : Symbol) (a : α) : readSym (writeSym v x a) x = a := by
  simp [readSym, writeSym]

theorem readSym_writeSym_ne (v : Arr α 256) {x y : Symbol} (a : α) (h : y ≠ x) :
    readSym (writeSym v x a) y = readSym v y := by
  have : x.toNat ≠ y.toNat := fun e => h (BitVec.eq_of_toNat_eq e.symm)
  simp [readSym, writeSym, List.getElem_set_ne this]

@[simp] theorem readSym_replicate (a : α) (x : Symbol) : readSym (Arr.replicate 256 a) x = a :=
  List.getElem_replicate ..

theorem arr_ext_readSym {v w : Arr α 256} (h : ∀ x : Symbol, readSym v x = readSym w x) : v = w := by
  obtain ⟨l, hl⟩ := v
  obtain ⟨m, hm⟩ := w
  congr 1
  apply List.ext_getElem (hl.trans hm.symm)
  intro i hi _
  simpa [readSym, Nat.mod_eq_of_lt (hl ▸ hi : i < 256)] using h (BitVec.ofNat 8 i)

theorem getLsbD_setBit {w : Nat} (v : BitVec w) (i j : Nat) (b : Bool) :
    (setBit v i b).getLsbD j = if j = i ∧ j < w then b else v.getLsbD j := by
  unfold setBit
  by_cases hj : j < w
  · have hone : (1#w <<< i).getLsbD j = decide (j = i) := by
      simp only [BitVec.getLsbD_shiftLeft, hj, decide_true, Bool.true_and, BitVec.getLsbD_one]
      by_cases hlt : j < i
      · simp [hlt, Nat.ne_of_lt hlt]
      · by_cases he : j = i
        · subst he
          simp
          omega
        · have : j - i ≠ 0 := by omega
          simp [hlt, he, this]
    by_cases hij : j = i
    · have hself : (1#w <<< i).getLsbD j = true := by simpa [hij] using hone
      cases b
      · rw [if_neg Bool.false_ne_true, BitVec.getLsbD_and, BitVec.getLsbD_not, hself]
        simp [hij, hij ▸ hj]
      · rw [if_pos rfl, BitVec.getLsbD_or, hself]
        simp [hij, hij ▸ hj]
    · cases b <;> simp only [Bool.false_eq_true, if_true, if_false, BitVec.getLsbD_or, BitVec.getLsbD_and,
        BitVec.getLsbD_not, hone, hij, hj, decide_true, decide_false, false_and] <;> simp
  · have hv := BitVec.getLsbD_of_ge v j (Nat.le_of_not_lt hj)
    cases b <;> simp [hj, hv]

theorem lowBits_eq_iff (L : Nat) (v w : CodeBits) :
    lowBits L v = lowBits L w ↔ ∀ k, k < L → v.getLsbD k = w.getLsbD k := by
  unfold lowBits
  constructor
  · intro h k hk
    have := congrArg (fun n => n.testBit k) h
    simpa [Nat.testBit_mod_two_pow, hk, BitVec.getLsbD] using this
  · intro h
    apply Nat.eq_of_testBit_eq
    intro k
    by_cases hk : k < L
    · simpa [Nat.testBit_mod_two_pow, hk, BitVec.getLsbD] using h k hk
    · simp [Nat.testBit_mod_two_pow, hk]

/-- Bit j of chunk k is bit 32k + j of the code register, 0 past its end. -/
theorem getLsbD_readChunk (v : CodeBits) (k : ChunkIndex) (j : Nat) (hj : j < 32) :
    (readChunk v k).getLsbD j = v.getLsbD (32 * k.toNat + j) := by
  simp [readChunk, hj]

/-- A chunk write changes the bits of its chunk and no others. -/
theorem getLsbD_writeChunk (v : CodeBits) (k : ChunkIndex) (x : Word) (j : Nat) (hj : j < 255) :
    (writeChunk v k x).getLsbD j = if j / 32 = k.toNat then x.getLsbD (j % 32) else v.getLsbD j := by
  have hones : ∀ n, (0xFFFFFFFF#255).getLsbD n = decide (n < 32) := by
    intro n
    have : (0xFFFFFFFF#255) = (BitVec.allOnes 32).setWidth 255 := by decide
    rw [this, BitVec.getLsbD_setWidth, BitVec.getLsbD_allOnes]
    by_cases h : n < 32
    · have : n < 255 := by omega
      simp [h, this]
    · simp [h]
  simp only [writeChunk, BitVec.getLsbD_or, BitVec.getLsbD_and, BitVec.getLsbD_not, BitVec.getLsbD_shiftLeft, hj,
    decide_true, Bool.true_and, hones, BitVec.getLsbD_setWidth]
  by_cases hlt : j < 32 * k.toNat
  · have : j / 32 ≠ k.toNat := by omega
    simp [hlt, this]
  · by_cases hin : j - 32 * k.toNat < 32
    · have h1 : j / 32 = k.toNat := by omega
      have h2 : j % 32 = j - 32 * k.toNat := by omega
      have h3 : j - 32 * k.toNat < 255 := by omega
      simp [hlt, hin, h1, h2, h3]
    · have h1 : j / 32 ≠ k.toNat := by omega
      have h2 : x.getLsbD (j - 32 * k.toNat) = false := BitVec.getLsbD_of_ge _ _ (by omega)
      simp [hlt, hin, h1, h2]

@[simp] theorem length_byteBits (b : Byte) : (byteBits b).length = 8 := by
  simp [byteBits]

theorem getElem?_byteBits (b : Byte) (j : Nat) (hj : j < 8) : (byteBits b)[j]? = some (b.getLsbD j) := by
  simp [byteBits, hj]

@[simp] theorem length_code (e : CodeEntry) : e.code.length = e.len.toNat := by
  simp [CodeEntry.code]

theorem code_eq_nil_iff (e : CodeEntry) : e.code = [] ↔ e.len = 0 := by
  rw [← List.length_eq_zero_iff, length_code]
  exact ⟨fun h => BitVec.eq_of_toNat_eq (by simpa using h), fun h => by simp [h]⟩

theorem code_eq_iff (e f : CodeEntry) :
    e.code = f.code ↔ e.len = f.len ∧ lowBits e.len.toNat e.bits = lowBits e.len.toNat f.bits := by
  rw [lowBits_eq_iff]
  constructor
  · intro h
    have hl : e.len.toNat = f.len.toNat := by simpa using congrArg List.length h
    refine ⟨BitVec.eq_of_toNat_eq hl, fun k hk => ?_⟩
    have := congrArg (fun l => l[k]?) h
    simpa [CodeEntry.code, hk, ← hl] using this
  · rintro ⟨hl, hb⟩
    simp only [CodeEntry.code, ← hl]
    exact List.map_congr_left fun k hk => hb k (List.mem_range.mp hk)

@[simp] theorem length_allSymbols : allSymbols.length = 256 := by
  simp [allSymbols]

theorem getElem?_allSymbols (k : Nat) (hk : k < 256) : allSymbols[k]? = some (BitVec.ofNat 8 k) := by
  simp [allSymbols, hk]

@[simp] theorem mem_allSymbols (x : Symbol) : x ∈ allSymbols := by
  simp only [allSymbols, List.mem_map, List.mem_range]
  exact ⟨x.toNat, x.isLt, by simp⟩

theorem nodup_allSymbols : allSymbols.Nodup := by
  refine (List.nodup_range (n := 256)).map_on ?_
  intro a ha b hb h
  have := congrArg BitVec.toNat h
  simp only [List.mem_range] at ha hb
  simpa [Nat.mod_eq_of_lt ha, Nat.mod_eq_of_lt hb] using this

end Sys2Proof.Laws
end

