-- ==== Sys2Proof/Laws/State.lean ====
section
/-! SUPPORT. One lemma per field for each named update of the state: what it writes and what it keeps. -/

namespace Sys2Proof.Laws

open Sys2Proof Sys2Proof.Machine

variable (s : State)

/-! `raise` (R252) writes ERRCAUSE alone, and only when none is recorded. -/

theorem raise_of_noError (e : ErrCause) (h : s.errcause = .noError) : s.raise e = { s with errcause := e } := by
  simp [State.raise, h]

theorem raise_of_error (e : ErrCause) (h : s.errcause ≠ .noError) : s.raise e = s := by
  simp [State.raise, h]

theorem raise_errcause (e : ErrCause) : (s.raise e).errcause = if s.errcause = .noError then e else s.errcause := by
  unfold State.raise
  split <;> rfl

@[simp] theorem raise_config (e : ErrCause) : (s.raise e).config = s.config := by
  unfold State.raise
  split <;> rfl
@[simp] theorem raise_arg (e : ErrCause) : (s.raise e).arg = s.arg := by
  unfold State.raise
  split <;> rfl
@[simp] theorem raise_result (e : ErrCause) : (s.raise e).result = s.result := by
  unfold State.raise
  split <;> rfl
@[simp] theorem raise_busy (e : ErrCause) : (s.raise e).busy = s.busy := by
  unfold State.raise
  split <;> rfl
@[simp] theorem raise_fc (e : ErrCause) : (s.raise e).fc = s.fc := by
  unfold State.raise
  split <;> rfl
@[simp] theorem raise_tree (e : ErrCause) : (s.raise e).tree = s.tree := by
  unfold State.raise
  split <;> rfl
@[simp] theorem raise_table (e : ErrCause) : (s.raise e).table = s.table := by
  unfold State.raise
  split <;> rfl
@[simp] theorem raise_tableValid (e : ErrCause) : (s.raise e).tableValid = s.tableValid := by
  unfold State.raise
  split <;> rfl
@[simp] theorem raise_packer (e : ErrCause) : (s.raise e).packer = s.packer := by
  unfold State.raise
  split <;> rfl
@[simp] theorem raise_unpacker (e : ErrCause) : (s.raise e).unpacker = s.unpacker := by
  unfold State.raise
  split <;> rfl
@[simp] theorem raise_pending (e : ErrCause) : (s.raise e).pending = s.pending := by
  unfold State.raise
  split <;> rfl
@[simp] theorem raise_responses (e : ErrCause) : (s.raise e).responses = s.responses := by
  unfold State.raise
  split <;> rfl

/-! CLR_ERR (R122) writes ERRCAUSE alone. -/

@[simp] theorem clearError_config : (s.clearError).config = s.config := rfl
@[simp] theorem clearError_arg : (s.clearError).arg = s.arg := rfl
@[simp] theorem clearError_result : (s.clearError).result = s.result := rfl
@[simp] theorem clearError_errcause : (s.clearError).errcause = .noError := rfl
@[simp] theorem clearError_busy : (s.clearError).busy = s.busy := rfl
@[simp] theorem clearError_fc : (s.clearError).fc = s.fc := rfl
@[simp] theorem clearError_tree : (s.clearError).tree = s.tree := rfl
@[simp] theorem clearError_table : (s.clearError).table = s.table := rfl
@[simp] theorem clearError_tableValid : (s.clearError).tableValid = s.tableValid := rfl
@[simp] theorem clearError_packer : (s.clearError).packer = s.packer := rfl
@[simp] theorem clearError_unpacker : (s.clearError).unpacker = s.unpacker := rfl
@[simp] theorem clearError_pending : (s.clearError).pending = s.pending := rfl
@[simp] theorem clearError_responses : (s.clearError).responses = s.responses := rfl

/-! AbortEncode (R201) writes the packer alone. -/

@[simp] theorem abortEncode_config : (s.abortEncode).config = s.config := rfl
@[simp] theorem abortEncode_arg : (s.abortEncode).arg = s.arg := rfl
@[simp] theorem abortEncode_result : (s.abortEncode).result = s.result := rfl
@[simp] theorem abortEncode_errcause : (s.abortEncode).errcause = s.errcause := rfl
@[simp] theorem abortEncode_busy : (s.abortEncode).busy = s.busy := rfl
@[simp] theorem abortEncode_fc : (s.abortEncode).fc = s.fc := rfl
@[simp] theorem abortEncode_tree : (s.abortEncode).tree = s.tree := rfl
@[simp] theorem abortEncode_table : (s.abortEncode).table = s.table := rfl
@[simp] theorem abortEncode_tableValid : (s.abortEncode).tableValid = s.tableValid := rfl
@[simp] theorem abortEncode_packer : (s.abortEncode).packer = { active := false, acc := 0, accLen := 0, pkq := [] } := rfl
@[simp] theorem abortEncode_unpacker : (s.abortEncode).unpacker = s.unpacker := rfl
@[simp] theorem abortEncode_pending : (s.abortEncode).pending = s.pending := rfl
@[simp] theorem abortEncode_responses : (s.abortEncode).responses = s.responses := rfl

/-! AbortDecode (R223) writes DSTATE and DKQ alone. -/

@[simp] theorem abortDecode_config : (s.abortDecode).config = s.config := rfl
@[simp] theorem abortDecode_arg : (s.abortDecode).arg = s.arg := rfl
@[simp] theorem abortDecode_result : (s.abortDecode).result = s.result := rfl
@[simp] theorem abortDecode_errcause : (s.abortDecode).errcause = s.errcause := rfl
@[simp] theorem abortDecode_busy : (s.abortDecode).busy = s.busy := rfl
@[simp] theorem abortDecode_fc : (s.abortDecode).fc = s.fc := rfl
@[simp] theorem abortDecode_tree : (s.abortDecode).tree = s.tree := rfl
@[simp] theorem abortDecode_table : (s.abortDecode).table = s.table := rfl
@[simp] theorem abortDecode_tableValid : (s.abortDecode).tableValid = s.tableValid := rfl
@[simp] theorem abortDecode_packer : (s.abortDecode).packer = s.packer := rfl
@[simp] theorem abortDecode_unpacker : (s.abortDecode).unpacker = { s.unpacker with dstate := .failed, dkq := [] } := rfl
@[simp] theorem abortDecode_pending : (s.abortDecode).pending = s.pending := rfl
@[simp] theorem abortDecode_responses : (s.abortDecode).responses = s.responses := rfl

/-! A query writes RESULT alone (R29). -/

@[simp] theorem setResult_config (v : Word) : (s.setResult v).config = s.config := rfl
@[simp] theorem setResult_arg (v : Word) : (s.setResult v).arg = s.arg := rfl
@[simp] theorem setResult_result (v : Word) : (s.setResult v).result = v := rfl
@[simp] theorem setResult_errcause (v : Word) : (s.setResult v).errcause = s.errcause := rfl
@[simp] theorem setResult_busy (v : Word) : (s.setResult v).busy = s.busy := rfl
@[simp] theorem setResult_fc (v : Word) : (s.setResult v).fc = s.fc := rfl
@[simp] theorem setResult_tree (v : Word) : (s.setResult v).tree = s.tree := rfl
@[simp] theorem setResult_table (v : Word) : (s.setResult v).table = s.table := rfl
@[simp] theorem setResult_tableValid (v : Word) : (s.setResult v).tableValid = s.tableValid := rfl
@[simp] theorem setResult_packer (v : Word) : (s.setResult v).packer = s.packer := rfl
@[simp] theorem setResult_unpacker (v : Word) : (s.setResult v).unpacker = s.unpacker := rfl
@[simp] theorem setResult_pending (v : Word) : (s.setResult v).pending = s.pending := rfl
@[simp] theorem setResult_responses (v : Word) : (s.setResult v).responses = s.responses := rfl

/-! A performed FC_COUNT or FC_SET writes FREQ, TOTAL and TREE_VALID (R131, R132). -/

@[simp] theorem setFreq_config (x : Symbol) (c n : Word) : (s.setFreq x c n).config = s.config := rfl
@[simp] theorem setFreq_arg (x : Symbol) (c n : Word) : (s.setFreq x c n).arg = s.arg := rfl
@[simp] theorem setFreq_result (x : Symbol) (c n : Word) : (s.setFreq x c n).result = s.result := rfl
@[simp] theorem setFreq_errcause (x : Symbol) (c n : Word) : (s.setFreq x c n).errcause = s.errcause := rfl
@[simp] theorem setFreq_busy (x : Symbol) (c n : Word) : (s.setFreq x c n).busy = s.busy := rfl
@[simp] theorem setFreq_fc (x : Symbol) (c n : Word) : (s.setFreq x c n).fc = { freq := writeSym s.fc.freq x c, total := n } := rfl
@[simp] theorem setFreq_tree (x : Symbol) (c n : Word) : (s.setFreq x c n).tree = { s.tree with treeValid := false } := rfl
@[simp] theorem setFreq_table (x : Symbol) (c n : Word) : (s.setFreq x c n).table = s.table := rfl
@[simp] theorem setFreq_tableValid (x : Symbol) (c n : Word) : (s.setFreq x c n).tableValid = s.tableValid := rfl
@[simp] theorem setFreq_packer (x : Symbol) (c n : Word) : (s.setFreq x c n).packer = s.packer := rfl
@[simp] theorem setFreq_unpacker (x : Symbol) (c n : Word) : (s.setFreq x c n).unpacker = s.unpacker := rfl
@[simp] theorem setFreq_pending (x : Symbol) (c n : Word) : (s.setFreq x c n).pending = s.pending := rfl
@[simp] theorem setFreq_responses (x : Symbol) (c n : Word) : (s.setFreq x c n).responses = s.responses := rfl

/-! A table write clears TABLE_VALID (R45). -/

@[simp] theorem setEntry_config (x : Symbol) (e : CodeEntry) : (s.setEntry x e).config = s.config := rfl
@[simp] theorem setEntry_arg (x : Symbol) (e : CodeEntry) : (s.setEntry x e).arg = s.arg := rfl
@[simp] theorem setEntry_result (x : Symbol) (e : CodeEntry) : (s.setEntry x e).result = s.result := rfl
@[simp] theorem setEntry_errcause (x : Symbol) (e : CodeEntry) : (s.setEntry x e).errcause = s.errcause := rfl
@[simp] theorem setEntry_busy (x : Symbol) (e : CodeEntry) : (s.setEntry x e).busy = s.busy := rfl
@[simp] theorem setEntry_fc (x : Symbol) (e : CodeEntry) : (s.setEntry x e).fc = s.fc := rfl
@[simp] theorem setEntry_tree (x : Symbol) (e : CodeEntry) : (s.setEntry x e).tree = s.tree := rfl
@[simp] theorem setEntry_table (x : Symbol) (e : CodeEntry) : (s.setEntry x e).table = writeSym s.table x e := rfl
@[simp] theorem setEntry_tableValid (x : Symbol) (e : CodeEntry) : (s.setEntry x e).tableValid = false := rfl
@[simp] theorem setEntry_packer (x : Symbol) (e : CodeEntry) : (s.setEntry x e).packer = s.packer := rfl
@[simp] theorem setEntry_unpacker (x : Symbol) (e : CodeEntry) : (s.setEntry x e).unpacker = s.unpacker := rfl
@[simp] theorem setEntry_pending (x : Symbol) (e : CodeEntry) : (s.setEntry x e).pending = s.pending := rfl
@[simp] theorem setEntry_responses (x : Symbol) (e : CodeEntry) : (s.setEntry x e).responses = s.responses := rfl

/-! The host port's answer to a read (R61). -/

@[simp] theorem respond_config (v : Word) : (respond v s).config = s.config := rfl
@[simp] theorem respond_arg (v : Word) : (respond v s).arg = s.arg := rfl
@[simp] theorem respond_result (v : Word) : (respond v s).result = s.result := rfl
@[simp] theorem respond_errcause (v : Word) : (respond v s).errcause = s.errcause := rfl
@[simp] theorem respond_busy (v : Word) : (respond v s).busy = s.busy := rfl
@[simp] theorem respond_fc (v : Word) : (respond v s).fc = s.fc := rfl
@[simp] theorem respond_tree (v : Word) : (respond v s).tree = s.tree := rfl
@[simp] theorem respond_table (v : Word) : (respond v s).table = s.table := rfl
@[simp] theorem respond_tableValid (v : Word) : (respond v s).tableValid = s.tableValid := rfl
@[simp] theorem respond_packer (v : Word) : (respond v s).packer = s.packer := rfl
@[simp] theorem respond_unpacker (v : Word) : (respond v s).unpacker = s.unpacker := rfl
@[simp] theorem respond_pending (v : Word) : (respond v s).pending = s.pending := rfl
@[simp] theorem respond_responses (v : Word) : (respond v s).responses = s.responses ++ [v] := rfl

/-! ResetState (R281) writes every element of R52. -/

@[simp] theorem resetState_config : (s.resetState).config = s.config := rfl
@[simp] theorem resetState_arg : (s.resetState).arg = 0 := rfl
@[simp] theorem resetState_result : (s.resetState).result = 0 := rfl
@[simp] theorem resetState_errcause : (s.resetState).errcause = .noError := rfl
@[simp] theorem resetState_busy : (s.resetState).busy = false := rfl
@[simp] theorem resetState_fc : (s.resetState).fc = { freq := Arr.replicate 256 0, total := 0 } := rfl
@[simp] theorem resetState_tree : (s.resetState).tree = { node := Arr.replicate 511 Node.zero, nodeCount := 0, root := 0, rootValid := false, treeValid := false } := rfl
@[simp] theorem resetState_table : (s.resetState).table = CodeTable.empty := rfl
@[simp] theorem resetState_tableValid : (s.resetState).tableValid = false := rfl
@[simp] theorem resetState_packer : (s.resetState).packer = { active := false, acc := 0, accLen := 0, pkq := [] } := rfl
@[simp] theorem resetState_unpacker : (s.resetState).unpacker = { dstate := .idle, cand := 0, candLen := 0, decCount := 0, decTarget := 0, dkq := [] } := rfl
@[simp] theorem resetState_pending : (s.resetState).pending = s.pending := rfl
@[simp] theorem resetState_responses : (s.resetState).responses = s.responses := rfl

/-! Building the inverse (R170, R176) writes TABLE_VALID, and ERRCAUSE on failure. -/

theorem validateTable_of_valid (h : s.table.valid = true) : s.validateTable = { s with tableValid := true } := by
  simp [State.validateTable, h]

theorem validateTable_of_invalid (h : s.table.valid = false) :
    s.validateTable = { s with tableValid := false }.raise .invalidTable := by
  simp [State.validateTable, h]

@[simp] theorem validateTable_config : s.validateTable.config = s.config := by
  unfold State.validateTable
  split <;> simp
@[simp] theorem validateTable_arg : s.validateTable.arg = s.arg := by
  unfold State.validateTable
  split <;> simp
@[simp] theorem validateTable_result : s.validateTable.result = s.result := by
  unfold State.validateTable
  split <;> simp
@[simp] theorem validateTable_busy : s.validateTable.busy = s.busy := by
  unfold State.validateTable
  split <;> simp
@[simp] theorem validateTable_fc : s.validateTable.fc = s.fc := by
  unfold State.validateTable
  split <;> simp
@[simp] theorem validateTable_tree : s.validateTable.tree = s.tree := by
  unfold State.validateTable
  split <;> simp
@[simp] theorem validateTable_table : s.validateTable.table = s.table := by
  unfold State.validateTable
  split <;> simp
@[simp] theorem validateTable_tableValid : s.validateTable.tableValid = s.table.valid := by
  unfold State.validateTable
  split <;> simp_all
@[simp] theorem validateTable_packer : s.validateTable.packer = s.packer := by
  unfold State.validateTable
  split <;> simp
@[simp] theorem validateTable_unpacker : s.validateTable.unpacker = s.unpacker := by
  unfold State.validateTable
  split <;> simp
@[simp] theorem validateTable_pending : s.validateTable.pending = s.pending := by
  unfold State.validateTable
  split <;> simp
@[simp] theorem validateTable_responses : s.validateTable.responses = s.responses := by
  unfold State.validateTable
  split <;> simp

end Sys2Proof.Laws
end

