-- ==== Sys2Proof/Laws/Ops.lean ====
section
/-! SUPPORT. What each shared operation can do, said once: the gate, the session guard, the FIFO pops and the end of the
command cycle. -/

namespace Sys2Proof.Laws

open Sys2Proof Sys2Proof.Machine

/-- The gate with no error recorded (R98). -/
theorem gated_of_noError {s : State} (h : s.errcause = .noError) (body : State → Result) : s.gated body = body s := by
  simp [State.gated, h]

/-- The gate with an error recorded (R98). -/
theorem gated_of_error {s : State} (h : s.errcause ≠ .noError) (body : State → Result) : s.gated body = .next s := by
  simp [State.gated, h]

/-- Everything the gate can do. -/
theorem gated_cases {s t : State} {body : State → Result} (h : s.gated body = .next t) :
    (s.errcause ≠ .noError ∧ t = s) ∨ (s.errcause = .noError ∧ body s = .next t) := by
  by_cases he : s.errcause = .noError
  · exact .inr ⟨he, by rwa [gated_of_noError he] at h⟩
  · rw [gated_of_error he] at h
    exact .inl ⟨he, by injection h with h; exact h.symm⟩

theorem sessionActive_iff (s : State) :
    s.sessionActive = true ↔ s.packer.active = true ∨ s.unpacker.dstate = .accumulating := by
  simp [State.sessionActive]

/-- The session guard with no session open (R181). -/
theorem guarded_of_idle {s : State} (h : s.sessionActive = false) (body : State → Result) : s.guarded body = body s := by
  simp [State.guarded, h]

/-- The session guard with a session open (R181). -/
theorem guarded_of_active {s : State} (h : s.sessionActive = true) (body : State → Result) :
    s.guarded body = .next (s.raise .sequence) := by
  simp [State.guarded, h]

/-- Everything the session guard can do. -/
theorem guarded_cases {s t : State} {body : State → Result} (h : s.guarded body = .next t) :
    (s.sessionActive = true ∧ t = s.raise .sequence) ∨ (s.sessionActive = false ∧ body s = .next t) := by
  cases ha : s.sessionActive
  · exact .inr ⟨rfl, by rwa [guarded_of_idle ha] at h⟩
  · rw [guarded_of_active ha] at h
    exact .inl ⟨rfl, by injection h with h; exact h.symm⟩

theorem popPk_nil {s : State} (h : s.packer.pkq = []) : s.popPk = (0#32, s) := by
  simp [State.popPk, h]

theorem popPk_cons {s : State} {b : Byte} {q : List Byte} (h : s.packer.pkq = b :: q) :
    s.popPk = (validEntry b, { s with packer := { s.packer with pkq := q } }) := by
  simp [State.popPk, h]

theorem popDk_nil {s : State} (h : s.unpacker.dkq = []) : s.popDk = (0#32, s) := by
  simp [State.popDk, h]

theorem popDk_cons {s : State} {b : Symbol} {q : List Symbol} (h : s.unpacker.dkq = b :: q) :
    s.popDk = (validEntry b, { s with unpacker := { s.unpacker with dkq := q } }) := by
  simp [State.popDk, h]

/-- Bit 8 of a popped entry is VALID (R30, R31). -/
@[simp] theorem validEntry_valid (b : Byte) : (validEntry b).getLsbD 8 = true := by
  revert b
  decide

/-- Bits [7:0] of a popped entry are the entry (R30, R31). -/
@[simp] theorem validEntry_byte (b : Byte) : (validEntry b).extractLsb' 0 8 = b := by
  revert b
  decide

/-- Everything the end of the command cycle can do (R97). -/
theorem finishCommand_cases {r : Result} {t : State} (h : finishCommand r = .next t) :
    ∃ s, r = .next s ∧ t = { s with busy := false } := by
  cases r with
  | next s => exact ⟨s, rfl, by injection h with h; exact h.symm⟩
  | fault f => cases h
  | refused f => cases h

@[simp] theorem finishCommand_next (s : State) : finishCommand (.next s) = .next { s with busy := false } := rfl

end Sys2Proof.Laws
end

