-- ==== Sys2Proof/Laws/PerInstr.lean ====
section
/-! SUPPORT. Statements about every command as syntax, one lemma per constructor: the opcode field of its word and its reserved
bits (30_encoding.md R90, R91, R95). -/

namespace Sys2Proof.Laws

/-- An opcode in front of a payload is the word's opcode field. -/
theorem opField_append (op : BitVec 8) (p : BitVec 24) : opField (op ++ p) = op :=
  BitVec.extractLsb'_append_eq_left

/-- A reserved mask below the opcode only sees the payload. -/
theorem append_and_mask (op : BitVec 8) (p m : BitVec 24) (h : p &&& m = 0#24) : (op ++ p) &&& (0#8 ++ m) = 0#32 := by
  rw [BitVec.and_append, h, BitVec.and_zero]
  rfl

/-- Format S: the reserved field of the payload is 0. -/
theorem payload_S (x : BitVec 8) : (0#16 ++ x : BitVec 24) &&& 0x00FFFF00#24 = 0#24 := by
  rw [show (0x00FFFF00#24) = 0xFFFF#16 ++ 0#8 from rfl, BitVec.and_append, BitVec.zero_and, BitVec.and_zero]
  rfl

/-- Format I: the reserved field of the payload is 0. -/
theorem payload_I (x : BitVec 9) : (0#15 ++ x : BitVec 24) &&& 0x00FFFE00#24 = 0#24 := by
  rw [show (0x00FFFE00#24) = 0x7FFF#15 ++ 0#9 from rfl, BitVec.and_append, BitVec.zero_and, BitVec.and_zero]
  rfl

/-- Format SL: the reserved field of the payload is 0. -/
theorem payload_SL (x y : BitVec 8) : (0#8 ++ y ++ x : BitVec 24) &&& 0x00FF0000#24 = 0#24 := by
  rw [show (0x00FF0000#24) = 0xFF#8 ++ 0#8 ++ 0#8 from rfl, BitVec.and_append, BitVec.and_append, BitVec.zero_and,
    BitVec.and_zero, BitVec.and_zero]
  rfl

/-- Format SC: the reserved field of the payload is 0. -/
theorem payload_SC (x : BitVec 8) (k : BitVec 3) : (0#13 ++ k ++ x : BitVec 24) &&& 0x00FFF800#24 = 0#24 := by
  rw [show (0x00FFF800#24) = 0x1FFF#13 ++ 0#3 ++ 0#8 from rfl, BitVec.and_append, BitVec.and_append, BitVec.zero_and,
    BitVec.and_zero, BitVec.and_zero]
  rfl

end Sys2Proof.Laws

/-- R90: w[31:24] of the command's word is its opcode. -/
def Sys2Proof.Laws.OpcodeField.Statement (i : Sys2Proof.Instr) : Prop :=
  Sys2Proof.opField (Sys2Proof.encode i) = i.opcode

/-- R95: the command's word has no reserved bit set. -/
def Sys2Proof.Laws.ReservedZero.Statement (i : Sys2Proof.Instr) : Prop :=
  Sys2Proof.encode i &&& i.format.rsv = 0#32

namespace Sys2Proof.Laws.OpcodeField

theorem nop : Statement .nop := opField_append _ _
theorem softReset : Statement .softReset := opField_append _ _
theorem clrErr : Statement .clrErr := opField_append _ _
theorem fcClear : Statement .fcClear := opField_append _ _
theorem fcCount (sym : Symbol) : Statement (.fcCount sym) := opField_append _ _
theorem fcSet (sym : Symbol) : Statement (.fcSet sym) := opField_append _ _
theorem fcRead (sym : Symbol) : Statement (.fcRead sym) := opField_append _ _
theorem tbBuild : Statement .tbBuild := opField_append _ _
theorem tbReadw (idx : NodeIndex) : Statement (.tbReadw idx) := opField_append _ _
theorem tbReadn (idx : NodeIndex) : Statement (.tbReadn idx) := opField_append _ _
theorem caAssign : Statement .caAssign := opField_append _ _
theorem ctClear : Statement .ctClear := opField_append _ _
theorem ctSetlen (sym : Symbol) (len : CodeLen) : Statement (.ctSetlen sym len) := opField_append _ _
theorem ctSetbits (sym : Symbol) (chunk : ChunkIndex) : Statement (.ctSetbits sym chunk) := opField_append _ _
theorem ctValidate : Statement .ctValidate := opField_append _ _
theorem ctReadlen (sym : Symbol) : Statement (.ctReadlen sym) := opField_append _ _
theorem ctReadbits (sym : Symbol) (chunk : ChunkIndex) : Statement (.ctReadbits sym chunk) := opField_append _ _
theorem enStart : Statement .enStart := opField_append _ _
theorem enSym (sym : Symbol) : Statement (.enSym sym) := opField_append _ _
theorem enFlush : Statement .enFlush := opField_append _ _
theorem deStart : Statement .deStart := opField_append _ _
theorem deByte (byte : Byte) : Statement (.deByte byte) := opField_append _ _
theorem deEnd : Statement .deEnd := opField_append _ _

end Sys2Proof.Laws.OpcodeField

namespace Sys2Proof.Laws.ReservedZero

theorem nop : Statement .nop := by
  show _ &&& _ = _
  decide
theorem softReset : Statement .softReset := by
  show _ &&& _ = _
  decide
theorem clrErr : Statement .clrErr := by
  show _ &&& _ = _
  decide
theorem fcClear : Statement .fcClear := by
  show _ &&& _ = _
  decide
theorem fcCount (sym : Symbol) : Statement (.fcCount sym) := append_and_mask 0x11#8 _ _ (payload_S sym)
theorem fcSet (sym : Symbol) : Statement (.fcSet sym) := append_and_mask 0x12#8 _ _ (payload_S sym)
theorem fcRead (sym : Symbol) : Statement (.fcRead sym) := append_and_mask 0x13#8 _ _ (payload_S sym)
theorem tbBuild : Statement .tbBuild := by
  show _ &&& _ = _
  decide
theorem tbReadw (idx : NodeIndex) : Statement (.tbReadw idx) := append_and_mask 0x21#8 _ _ (payload_I idx)
theorem tbReadn (idx : NodeIndex) : Statement (.tbReadn idx) := append_and_mask 0x22#8 _ _ (payload_I idx)
theorem caAssign : Statement .caAssign := by
  show _ &&& _ = _
  decide
theorem ctClear : Statement .ctClear := by
  show _ &&& _ = _
  decide
theorem ctSetlen (sym : Symbol) (len : CodeLen) : Statement (.ctSetlen sym len) := append_and_mask 0x32#8 _ _ (payload_SL sym len)
theorem ctSetbits (sym : Symbol) (chunk : ChunkIndex) : Statement (.ctSetbits sym chunk) := append_and_mask 0x33#8 _ _ (payload_SC sym chunk)
theorem ctValidate : Statement .ctValidate := by
  show _ &&& _ = _
  decide
theorem ctReadlen (sym : Symbol) : Statement (.ctReadlen sym) := append_and_mask 0x35#8 _ _ (payload_S sym)
theorem ctReadbits (sym : Symbol) (chunk : ChunkIndex) : Statement (.ctReadbits sym chunk) := append_and_mask 0x36#8 _ _ (payload_SC sym chunk)
theorem enStart : Statement .enStart := by
  show _ &&& _ = _
  decide
theorem enSym (sym : Symbol) : Statement (.enSym sym) := append_and_mask 0x41#8 _ _ (payload_S sym)
theorem enFlush : Statement .enFlush := by
  show _ &&& _ = _
  decide
theorem deStart : Statement .deStart := by
  show _ &&& _ = _
  decide
theorem deByte (byte : Byte) : Statement (.deByte byte) := append_and_mask 0x51#8 _ _ (payload_S byte)
theorem deEnd : Statement .deEnd := by
  show _ &&& _ = _
  decide

end Sys2Proof.Laws.ReservedZero
end

