-- ==== Sys2Proof/Laws/Units.lean ====
section
/-! SUPPORT. What AppendBit and DecodeBit do, what a first match is when nothing was emitted, and how the host's actions
compose. -/

namespace Sys2Proof.Laws

open Sys2Proof Sys2Proof.Machine

@[simp] theorem appendBit_active (p : Packer) (b : Bool) : (p.appendBit b).active = p.active := by
  unfold Packer.appendBit
  dsimp only
  split <;> rfl

@[simp] theorem appendBits_nil (p : Packer) : p.appendBits [] = p := rfl

@[simp] theorem appendBits_cons (p : Packer) (b : Bool) (bs : List Bool) :
    p.appendBits (b :: bs) = (p.appendBit b).appendBits bs := rfl

theorem appendBits_append (p : Packer) (bs cs : List Bool) :
    p.appendBits (bs ++ cs) = (p.appendBits bs).appendBits cs := by
  simp [Packer.appendBits]

@[simp] theorem appendBits_active (p : Packer) (bs : List Bool) : (p.appendBits bs).active = p.active := by
  induction bs generalizing p with
  | nil => rfl
  | cons b bs ih => rw [appendBits_cons, ih, appendBit_active]

/-- The eighth pending bit completes a byte (R203). -/
theorem appendBit_full {p : Packer} (b : Bool) (h : p.accLen.toNat = 7) :
    p.appendBit b = { p with acc := 0, accLen := 0, pkq := p.pkq ++ [setBit p.acc 7 b] } := by
  simp [Packer.appendBit, h]

/-- Any earlier bit is kept pending (R203). -/
theorem appendBit_partial {p : Packer} (b : Bool) (h : p.accLen.toNat ≠ 7) :
    p.appendBit b =
      { p with acc := setBit p.acc p.accLen.toNat b, accLen := BitVec.ofNat 3 (p.accLen.toNat + 1) } := by
  simp [Packer.appendBit, h]

/-- The unpacker after one bit, whether or not the candidate overflowed. -/
def BitStep.unpacker : BitStep → Unpacker
  | .ok u => u
  | .overflow u => u

/-- Everything one DecodeBit can do (R223). -/
theorem decodeBit_cases (t : CodeTable) (u : Unpacker) (b : Bool) :
    (∃ x, t.lookup (u.candLen.toNat + 1) (setBit u.cand u.candLen.toNat b) = some x ∧
      u.decodeBit t b = .ok { u with
        dkq := u.dkq ++ [x], decCount := u.decCount + 1, cand := 0, candLen := 0
        dstate := if u.decCount + 1 = u.decTarget then .done else u.dstate }) ∨
    (t.lookup (u.candLen.toNat + 1) (setBit u.cand u.candLen.toNat b) = none ∧
      u.decodeBit t b =
        (if u.candLen.toNat + 1 = maxCodeLen then BitStep.overflow else BitStep.ok)
          { u with cand := setBit u.cand u.candLen.toNat b, candLen := BitVec.ofNat 8 (u.candLen.toNat + 1) }) := by
  unfold Unpacker.decodeBit
  cases h : t.lookup (u.candLen.toNat + 1) (setBit u.cand u.candLen.toNat b) with
  | none =>
    right
    simp only [h]
    split <;> simp
  | some x =>
    left
    exact ⟨x, rfl, by simp only [h]⟩

@[simp] theorem bitstream_nil (t : CodeTable) : t.bitstream [] = [] := rfl

@[simp] theorem bitstream_cons (t : CodeTable) (x : Symbol) (xs : List Symbol) :
    t.bitstream (x :: xs) = t.codeOf x ++ t.bitstream xs := rfl

/-- Nothing was emitted: no candidate that ends in a bit tried now is a code (R223). -/
theorem firstMatches_nil_iff (t : CodeTable) (old : Nat) (rest : List Bool) :
    t.FirstMatches old [] rest ↔
      ∀ (p r : List Bool) (x : Symbol), p ++ r = rest → p ≠ [] → old < p.length → t.codeOf x ≠ p := by
  constructor
  · intro h p r x e hp hl hx
    obtain ⟨_, _, hz, -⟩ := h.1 [] [] p r x rfl (by simpa using e) hp (by simpa using hl) hx
    cases hz
  · intro h
    refine ⟨fun ys zs p r x hs e hp hl hx => ?_, fun z ws hs => by cases hs⟩
    obtain ⟨rfl, rfl⟩ := List.append_eq_nil_iff.mp hs.symm
    exact absurd hx (h p r x (by simpa using e) hp (by simpa using hl))

theorem performAll_append (as bs : List HostAction) (s : State) :
    performAll (as ++ bs) s = performAll bs (performAll as s) := by
  induction as generalizing s with
  | nil => rfl
  | cons a as ih => exact ih _

end Sys2Proof.Laws
end

