-- ==== Sys2Proof/Tests/Slice0.lean ====
section
/-! SUPPORT. The implementer's own tests: words and results from spec/95_test_vectors.md (the TV names) and from the examples of
the rules, the refusals of the well-formedness checks, and for every statement with hypotheses a concrete state and operands
that meet them. -/

namespace Sys2Proof.Tests

open Sys2Proof Sys2Proof.Machine

/-! ### Small states -/

/-- The state after an instruction. -/
def after (i : Instr) (s : State) : State := Result.stateOr (exec i s) s

/-- The table 'a' = "0", 'b' = "1" of S_aaab, validated. -/
def tableAB : State :=
  { State.reset with
    table := writeSym (writeSym CodeTable.empty 0x61 { len := 1, bits := 0 }) 0x62 { len := 1, bits := 1 }
    tableValid := true }

/-- FREQ of "aaab" and nothing built. -/
def countsAB : State :=
  { State.reset with
    fc := { freq := writeSym (writeSym (Arr.replicate 256 0) 0x61 3) 0x62 1, total := 4 } }

/-- FREQ of "aaab" and its tree. -/
def treeAB : State := { countsAB with tree := buildTree countsAB.fc.freq }

/-- An encode session of S_aaab with ACC_LEN = 3 and ACC = 0 (the example of R201). -/
def encAB : State := { tableAB with packer := { active := true, acc := 0, accLen := 3, pkq := [] } }

/-- A decode session of S_aaab for n symbols. -/
def decAB (n : Word) : State :=
  { tableAB with
    arg := n
    unpacker := { dstate := .accumulating, cand := 0, candLen := 0, decCount := 0, decTarget := n, dkq := [] } }

/-- A state with an error recorded. -/
def failedWith (e : ErrCause) : State := { State.reset with errcause := e }

/-- State.reset with the given actions pending. -/
def withPending (as : List HostAction) : State := { State.reset with pending := as }

/-! ### Well-formedness: one ill-formed access for each check of R62 -/

theorem test_narrow_access_refused : accessWf .half 0x04 = false := by decide
theorem test_misaligned_access_refused : accessWf .word 0x06 = false := by decide
theorem test_full_aligned_access_accepted : accessWf .word 0x04 = true := by decide
theorem test_largest_operands_wf : (Instr.ctSetbits 255 7).wf = true ∧ (Instr.tbReadn 511).wf = true := by decide

/-! ### Decoding: one word for each constructor, from the encodings of the rules -/

theorem test_decode_control :
    decode 0x00000000 = .instr .nop ∧ decode 0x01000000 = .instr .softReset ∧ decode 0x02000000 = .instr .clrErr := by
  decide
theorem test_decode_frequency_counter :
    decode 0x10000000 = .instr .fcClear ∧ decode 0x11000061 = .instr (.fcCount 0x61) ∧
    decode 0x12000062 = .instr (.fcSet 0x62) ∧ decode 0x1300007A = .instr (.fcRead 0x7A) := by decide
theorem test_decode_tree_builder :
    decode 0x20000000 = .instr .tbBuild ∧ decode 0x210001FF = .instr (.tbReadw 511) ∧
    decode 0x22000002 = .instr (.tbReadn 2) := by decide
theorem test_decode_code_table :
    decode 0x30000000 = .instr .caAssign ∧ decode 0x31000000 = .instr .ctClear ∧
    decode 0x3200FF41 = .instr (.ctSetlen 0x41 255) ∧ decode 0x33000741 = .instr (.ctSetbits 0x41 7) ∧
    decode 0x34000000 = .instr .ctValidate ∧ decode 0x35000061 = .instr (.ctReadlen 0x61) ∧
    decode 0x36000641 = .instr (.ctReadbits 0x41 6) := by decide
theorem test_decode_packer :
    decode 0x40000000 = .instr .enStart ∧ decode 0x41000062 = .instr (.enSym 0x62) ∧
    decode 0x42000000 = .instr .enFlush := by decide
theorem test_decode_unpacker :
    decode 0x50000000 = .instr .deStart ∧ decode 0x51000008 = .instr (.deByte 0x08) ∧
    decode 0x52000000 = .instr .deEnd := by decide

/-- FC_COUNT 'a' bit by bit: OP 0001 0001, sixteen 0 bits, SYM 0110 0001 (R91 format S). -/
theorem test_decode_bits_fcCount : decode 0b00010001000000000000000001100001 = .instr (.fcCount 0x61) := by decide
/-- CT_SETLEN 'b', 1 bit by bit: OP 0011 0010, eight 0 bits, LEN 0000 0001, SYM 0110 0010 (R91 format SL). -/
theorem test_decode_bits_ctSetlen : decode 0b00110010000000000000000101100010 = .instr (.ctSetlen 0x62 1) := by decide
/-- TB_READW 257 bit by bit: OP 0010 0001, fifteen 0 bits, IDX 1 0000 0001 (R91 format I). -/
theorem test_decode_bits_tbReadw : decode 0b00100001000000000000000100000001 = .instr (.tbReadw 257) := by decide

/-- TV-CC-3, TV-CC-4, TV-CC-11, TV-CT-12. -/
theorem test_illegal_words_rejected :
    decode 0x03000000 = .rejected .unassignedOpcode ∧ decode 0x00000001 = .rejected .reservedBitSet ∧
    decode 0x13000100 = .rejected .reservedBitSet ∧ decode 0x33000800 = .rejected .reservedBitSet := by decide
theorem test_table_word : decodeTableWord 32 0x3200FF41 = some (.ctSetlen 0x41 255) := by decide
theorem test_short_bytes_rejected : decodeBytes [0x00, 0x00, 0x20] = .error .shortInput := by decide

/-! ### One step each -/

/-- The example of R120, through the port. -/
theorem test_nop_step : step (State.reset.withFetchWord 32 0x00000000) = .next State.reset := by rfl
/-- The example of R121 (ERRCAUSE = 0x06). -/
theorem test_softReset : (after .softReset { countsAB with errcause := .truncated }).freqOf 0x61 = 0 ∧
    (after .softReset { countsAB with errcause := .truncated }).errcause = .noError := by decide
/-- The example of R122 (ERRCAUSE = 0x08). -/
theorem test_clrErr : (after .clrErr (failedWith .fifoOverflow)).status = 0 := by decide
/-- TV-FC-10: the table stays valid. -/
theorem test_fcClear : (after .fcClear { countsAB with tableValid := true }).status = 0x00000008 := by decide
/-- TV-FC-12: symbol 0x00 is counted like any other. -/
theorem test_fcCount_zero_symbol : (after (.fcCount 0) State.reset).freqOf 0 = 1 := by decide
/-- TV-FC-4: the count is refused at 2^32 − 1. -/
theorem test_fcCount_overflow :
    (after (.fcCount 0x62) { State.reset with fc := { State.reset.fc with total := 0xFFFFFFFF } }).errcause =
      .lenOverflow := by decide
/-- TV-FC-7: the bound itself is legal. -/
theorem test_fcSet_bound :
    (after (.fcSet 0x62) { after (.fcSet 0x61) { State.reset with arg := 5 } with arg := 0xFFFFFFFA }).fc.total =
      0xFFFFFFFF := by decide
/-- TV-FC-6: one more is refused. -/
theorem test_fcSet_overflow :
    (after (.fcSet 0x62) { after (.fcSet 0x61) { State.reset with arg := 5 } with arg := 0xFFFFFFFB }).errcause =
      .lenOverflow := by decide
/-- The example of R133. -/
theorem test_fcRead : (after (.fcRead 0x61) countsAB).result = 3 := by decide
/-- TV-TB-1: TREE_INFO, and node 1 extracted first becomes RIGHT. -/
theorem test_tbBuild : (after .tbBuild countsAB).treeInfo = 0x80020003 := by decide +kernel
theorem test_tbReadn_root : (after (.tbReadn 2) treeAB).result = 0x80000001 := by decide +kernel
/-- TV-TB-1 and TV-TB-2: a weight, and an index beyond the arena. -/
theorem test_tbReadw_root : (after (.tbReadw 2) treeAB).result = 4 := by decide
theorem test_tbReadw_511 : (after (.tbReadw 511) treeAB).result = 0 := by decide
/-- The example of R170. -/
theorem test_caAssign_codes :
    ((after .caAssign treeAB).entryOf 0x61).code = [false] ∧ ((after .caAssign treeAB).entryOf 0x62).code = [true] := by
  decide +kernel
/-- TV-TB-8: a stale tree. -/
theorem test_caAssign_stale : (after .caAssign State.reset).errcause = .sequence := by decide
/-- TV-CT-8: refused during an encode session. -/
theorem test_ctClear_in_session : (after .ctClear encAB).errcause = .sequence := by decide
/-- The example of R174. -/
theorem test_ctSetlen : ((after (.ctSetlen 0x62 1) State.reset).entryOf 0x62).len = 1 := by decide
/-- TV-CT-6: bit 255 of a code register does not exist. -/
theorem test_ctSetbits_chunk7 :
    (after (.ctReadbits 0x41 7) (after (.ctSetbits 0x41 7) { State.reset with arg := 0xFFFFFFFF })).result =
      0x7FFFFFFF := by decide
theorem test_ctReadbits_chunk6 :
    (after (.ctReadbits 0x41 6) (after (.ctSetbits 0x41 7) { State.reset with arg := 0xFFFFFFFF })).result = 0 := by
  decide
/-- TV-CT-4: 'a' = 'b' = "0" collide. -/
theorem test_ctValidate_collision :
    (after .ctValidate (after (.ctSetlen 0x62 1) (after (.ctSetlen 0x61 1) State.reset))).status = 0x00000002 := by
  decide +kernel
/-- TV-CT-7: the empty table is valid. -/
theorem test_ctValidate_empty : (after .ctValidate State.reset).status = 0x00000008 := by decide +kernel
/-- TV-CT-1. -/
theorem test_ctReadlen : (after (.ctReadlen 0x61) tableAB).result = 1 := by decide
/-- TV-EN-4. -/
theorem test_enStart_without_table : (after .enStart State.reset).errcause = .sequence := by decide
/-- The example of R201: ACC = 0x08, ACC_LEN = 4 and nothing pushed. -/
theorem test_enSym : (after (.enSym 0x62) encAB).encInfo = 0x00000408 := by decide
/-- TV-EN-5: MISSING_CODE ends the session. -/
theorem test_enSym_missing : (after (.enSym 0x63) encAB).status = 0x0000000A := by decide
/-- The example of R202. -/
theorem test_enFlush : (after .enFlush (after (.enSym 0x62) encAB)).packer.pkq = [0x08] := by decide
/-- TV-DE-1. -/
theorem test_deStart : (after .deStart { tableAB with arg := 4 }).status = 0x00000028 := by decide
/-- TV-DE-4: ARG = 0 enters DONE at once. -/
theorem test_deStart_zero : (after .deStart tableAB).unpacker.dstate = .done := by decide
/-- TV-DE-2: 'a', 'a', 'a', 'b', then DONE in the middle of the byte. -/
theorem test_deByte : (after (.deByte 0x08) (decAB 4)).unpacker.dkq = [0x61, 0x61, 0x61, 0x62] := by decide +kernel
/-- TV-DE-15: fewer than 8 free entries. -/
theorem test_deByte_full :
    (after (.deByte 0x00)
      { decAB 100 with unpacker := { (decAB 100).unpacker with dkq := List.replicate 9 0x61 } }).errcause =
      .fifoOverflow := by decide
/-- TV-DE-6: TRUNCATED with an empty candidate. -/
theorem test_deEnd : (after .deEnd (decAB 9)).status = 0x0000006A := by decide

/-- TV-CC-12, TV-DE-16: a reserved offset, and a decoded 0x00 with VALID = 1. -/
theorem test_reads :
    (readReg 0x38 State.reset).1 = 0 ∧
    (readReg 0x1C { decAB 3 with unpacker := { (decAB 3).unpacker with dkq := [0x00] } }).1 = 0x00000100 := by decide

/-! ### Witnesses: a concrete state and operands for the hypotheses of each statement, clause by clause -/

theorem witness_DecodeInvertsEncode : (Instr.ctSetlen 255 255).wf = true := by decide
theorem witness_EncodeInvertsDecode : decode 0x3200FF41 = .instr (.ctSetlen 0x41 255) := by decide
theorem witness_WordSelectsRow : 0x210001FF#32 &&& (Instr.tbReadw 0).rowMask = (Instr.tbReadw 0).rowMatch := by decide

theorem witness_IllegalWord_ranges :
    (opField 0x03000000).toNat = 0x03 ∧ (opField 0x1F000000).toNat = 0x1F ∧ (opField 0x4F000000).toNat = 0x4F ∧
    (opField 0xFF000000).toNat = 0xFF := by decide
theorem witness_IllegalWord_reserved :
    opField 0x13000100 = (Instr.fcRead 0).opcode ∧ 0x13000100#32 &&& (Instr.fcRead 0).format.rsv ≠ 0 := by decide

theorem witness_StepRunsDecodedCommand :
    (withPending [.write 0x04 .word 0x11000061]).busy = false ∧
    (withPending [.write 0x04 .word 0x11000061]).pending = .write 0x04 .word 0x11000061 :: [] ∧
    decode 0x11000061 = .instr (.fcCount 0x61) := by decide
theorem witness_PortServesAccessesInOrder :
    (withPending [.reset, .read 0x18 .word]).busy = false ∧
    (withPending [.reset, .read 0x18 .word]).pending = .reset :: [.read 0x18 .word] := by decide

theorem witness_PartialAccesses_narrow_write :
    (withPending [.write 0x04 .half 0]).busy = false ∧ (AccessSize.half ≠ .word ∨ (0x04 : Offset).toNat % 4 ≠ 0) ∧
    (withPending [.write 0x04 .half 0]).pending = .write 0x04 .half 0 :: [] := by decide
theorem witness_PartialAccesses_misaligned_read :
    (withPending [.read 0x19 .word]).busy = false ∧ (AccessSize.word ≠ .word ∨ (0x19 : Offset).toNat % 4 ≠ 0) ∧
    (withPending [.read 0x19 .word]).pending = .read 0x19 .word :: [] := by decide

theorem witness_ReadOnlyWrites_listed :
    (withPending [.write 0x34 .word 1]).busy = false ∧ (0x34 : Offset).toNat % 4 = 0 ∧
    (0x34#8 : Offset) ∈
      [0x00#8, 0x0C#8, 0x10#8, 0x14#8, 0x18#8, 0x1C#8, 0x20#8, 0x24#8, 0x28#8, 0x2C#8, 0x30#8, 0x34#8] ∧
    (withPending [.write 0x34 .word 1]).pending = .write 0x34 .word 1 :: [] := by decide
theorem witness_ReadOnlyWrites_reserved :
    (withPending [.read 0xFC .word]).busy = false ∧ (0xFC : Offset).toNat % 4 = 0 ∧ 0x38 ≤ (0xFC : Offset).toNat ∧
    (withPending [.read 0xFC .word]).pending = .read 0xFC .word :: [] := by decide
theorem witness_ReadOnlyWrites_first_reserved :
    (withPending [.write 0x38 .word 1]).busy = false ∧ (0x38 : Offset).toNat % 4 = 0 ∧ 0x38 ≤ (0x38 : Offset).toNat ∧
    (withPending [.write 0x38 .word 1]).pending = .write 0x38 .word 1 :: [] := by decide

theorem witness_ArgHoldsLastWrite :
    (withPending [.write 0x08 .word 0xFFFFFFFF, .read 0x08 .word]).busy = false ∧
    (withPending [.write 0x08 .word 0xFFFFFFFF, .read 0x08 .word]).pending =
      .write 0x08 .word 0xFFFFFFFF :: .read 0x08 .word :: [] := by decide
theorem witness_ReadsIdempotentExceptPops :
    (withPending [.read 0x0C .word, .read 0x0C .word]).busy = false ∧ (0x0C : Offset) ≠ 0x18 ∧ (0x0C : Offset) ≠ 0x1C ∧
    (withPending [.read 0x0C .word, .read 0x0C .word]).pending = .read 0x0C .word :: .read 0x0C .word :: [] := by decide

theorem witness_OutputReads_pk :
    ({ encAB with packer := { encAB.packer with pkq := [0x08] } } : State).packer.pkq = 0x08 :: [] ∧
    encAB.packer.pkq = [] := by decide
theorem witness_OutputReads_dk :
    ({ decAB 4 with unpacker := { (decAB 4).unpacker with dkq := [0] } } : State).unpacker.dkq = 0 :: [] ∧
    (decAB 4).unpacker.dkq = [] := by decide
theorem witness_StatusShowsState : encAB.FifosFit := by decide

theorem witness_BusyHolds_status :
    ({ withPending [.read 0x0C .word] with busy := true } : State).busy = true ∧
    ({ withPending [.read 0x0C .word] with busy := true } : State).pending = .read 0x0C .word :: [] := by decide
theorem witness_BusyHolds_id :
    ({ withPending [.read 0x00 .word] with busy := true } : State).busy = true ∧
    ({ withPending [.read 0x00 .word] with busy := true } : State).pending = .read 0x00 .word :: [] := by decide
theorem witness_BusyHolds_held :
    ({ withPending [.read 0x18 .word] with busy := true } : State).busy = true ∧
    ({ withPending [.read 0x18 .word] with busy := true } : State).pending = .read 0x18 .word :: [] ∧
    HostAction.read 0x18 .word ≠ .read 0x0C .word ∧ HostAction.read 0x18 .word ≠ .read 0x00 .word ∧
    HostAction.read 0x18 .word ≠ .reset := by decide

theorem witness_FirstErrorSticks : (failedWith .truncated).errcause ≠ .noError := by decide
theorem witness_Gate_gated : (Instr.deEnd).isGated = true ∧ (failedWith .truncated).errcause ≠ .noError := by decide
theorem witness_Gate_ungated : (Instr.fcRead 0x61).isGated = false := by decide

/-- The table 'a' = "00" alone and 254 pending bits that match nothing: the state of TV-DE-13 before the 255th bit. -/
def candNearEnd : State :=
  { State.reset with
    table := writeSym CodeTable.empty 0x61 { len := 2, bits := 0 }
    tableValid := true
    unpacker :=
      { dstate := .accumulating, cand := BitVec.allOnes 255 >>> 1, candLen := 254, decCount := 0, decTarget := 1
        dkq := [] } }
/-- A decode session with fewer than 8 free entries. -/
def decFull : State := { decAB 100 with unpacker := { (decAB 100).unpacker with dkq := List.replicate 9 0x61 } }
/-- 'a' = 'b' = "0". -/
def tableClash : State :=
  { State.reset with
    table := writeSym (writeSym CodeTable.empty 0x61 { len := 1, bits := 0 }) 0x62 { len := 1, bits := 0 } }
/-- One symbol counted 2^32 − 1 times. -/
def countsFull : State :=
  { State.reset with fc := { freq := writeSym (Arr.replicate 256 0) 0x61 0xFFFFFFFF, total := 0xFFFFFFFF } }

theorem witness_ErrorEntry_sequence :
    State.reset.errcause = .noError ∧ exec .deEnd State.reset = .next (after .deEnd State.reset) ∧
    (after .deEnd State.reset).errcause = .sequence := ⟨rfl, rfl, by decide⟩
theorem witness_ErrorEntry_lenOverflow :
    countsFull.errcause = .noError ∧ exec (.fcCount 0x62) countsFull = .next (after (.fcCount 0x62) countsFull) ∧
    (after (.fcCount 0x62) countsFull).errcause = .lenOverflow := ⟨rfl, rfl, by decide⟩
theorem witness_ErrorEntry_missingCode :
    encAB.errcause = .noError ∧ exec (.enSym 0x63) encAB = .next (after (.enSym 0x63) encAB) ∧
    (after (.enSym 0x63) encAB).errcause = .missingCode := ⟨rfl, rfl, by decide⟩
theorem witness_ErrorEntry_truncated :
    (decAB 9).errcause = .noError ∧ exec .deEnd (decAB 9) = .next (after .deEnd (decAB 9)) ∧
    (after .deEnd (decAB 9)).errcause = .truncated := ⟨rfl, rfl, by decide⟩
theorem witness_ErrorEntry_candOverflow :
    candNearEnd.errcause = .noError ∧ (after (.deByte 0xFF) candNearEnd).errcause = .candOverflow := by decide +kernel
theorem witness_ErrorEntry_invalidTable :
    tableClash.errcause = .noError ∧ (after .ctValidate tableClash).errcause = .invalidTable ∧
    Instr.ctValidate ≠ .caAssign := by decide +kernel
theorem witness_RefusedCommand_sequence :
    State.reset.errcause = .noError ∧ exec .enStart State.reset = .next (after .enStart State.reset) ∧
    (after .enStart State.reset).errcause = .sequence := ⟨rfl, rfl, by decide⟩
theorem witness_RefusedCommand_fifoOverflow :
    decFull.errcause = .noError ∧ exec (.deByte 0) decFull = .next (after (.deByte 0) decFull) ∧
    (after (.deByte 0) decFull).errcause = .fifoOverflow := ⟨rfl, rfl, by decide⟩
theorem witness_CommandsWriteOnlyTheirUnit :
    exec (.fcCount 0x61) State.reset = .next (after (.fcCount 0x61) State.reset) ∧ Instr.fcCount 0x61 ≠ .softReset :=
  ⟨rfl, by decide⟩

theorem witness_FcClear : countsAB.errcause = .noError := by decide
theorem witness_FcCount_counts :
    countsAB.errcause = .noError ∧ countsAB.CountsAgree ∧ countsAB.fc.total ≠ 0xFFFFFFFF#32 := by decide +kernel
theorem witness_FcCount_overflow :
    countsFull.errcause = .noError ∧ countsFull.CountsAgree ∧ countsFull.fc.total = 0xFFFFFFFF#32 := by decide +kernel
theorem witness_FcSet_overflow :
    ({ countsFull with arg := 1 } : State).errcause = .noError ∧ ({ countsFull with arg := 1 } : State).CountsAgree ∧
    countsFull.fc.total.toNat - (countsFull.freqOf 0x62).toNat + (1 : Word).toNat > 2 ^ 32 - 1 := by decide +kernel
theorem witness_FcSet_bound :
    ({ countsFull with arg := 0xFFFFFFFF } : State).errcause = .noError ∧
    ({ countsFull with arg := 0xFFFFFFFF } : State).CountsAgree ∧
    countsFull.fc.total.toNat - (countsFull.freqOf 0x61).toNat + (0xFFFFFFFF : Word).toNat ≤ 2 ^ 32 - 1 := by
  decide +kernel
theorem witness_StepKeepsCountInvariant :
    ({ countsAB with pending := [.reset] } : State).CountsAgree ∧
    step { countsAB with pending := [.reset] } = .next State.reset := ⟨by decide +kernel, rfl⟩

theorem witness_Queries_internal :
    (2 : NodeIndex).toNat < treeAB.tree.nodeCount.toNat ∧ (treeAB.tree.at 2).kind = .internal := by decide +kernel
theorem witness_Queries_leaf :
    (0 : NodeIndex).toNat < treeAB.tree.nodeCount.toNat ∧ (treeAB.tree.at 0).kind = .leaf := by decide +kernel
theorem witness_Queries_beyond : treeAB.tree.nodeCount.toNat ≤ (3 : NodeIndex).toNat := by decide +kernel

theorem witness_TbBuild_leaves :
    countsAB.errcause = .noError ∧ 1 ≤ leafCount countsAB.fc.freq ∧
    (presentSymbols countsAB.fc.freq)[1]? = some 0x62 := by decide +kernel
theorem witness_TbBuild_none : State.reset.errcause = .noError ∧ leafCount State.reset.fc.freq = 0 := by decide +kernel
theorem witness_TbBuildMerges :
    countsAB.errcause = .noError ∧ exec .tbBuild countsAB = .next (after .tbBuild countsAB) ∧
    leafCount countsAB.fc.freq ≤ 2 ∧ 2 < (after .tbBuild countsAB).tree.nodeCount.toNat :=
  ⟨rfl, rfl, by decide +kernel⟩
theorem witness_EveryNodeHasOneParent :
    exec .tbBuild countsAB = .next (after .tbBuild countsAB) ∧ 1 < (after .tbBuild countsAB).tree.root.toNat :=
  ⟨rfl, by decide +kernel⟩
theorem witness_RootWeightIsTotal :
    countsAB.errcause = .noError ∧ countsAB.CountsAgree ∧ exec .tbBuild countsAB = .next (after .tbBuild countsAB) ∧
    (after .tbBuild countsAB).tree.rootValid = true := ⟨rfl, by decide +kernel, rfl, by decide +kernel⟩

theorem witness_Lookup_match : tableAB.table.Matches 1 1 0x62 ∧ tableAB.table.lookup 1 1 = some 0x62 := by
  refine ⟨⟨by decide, ?_⟩, by decide +kernel⟩
  intro k hk
  obtain rfl : k = 0 := by omega
  decide
theorem witness_Lookup_longest : tableAB.table.lookup 255 0 = none ∧ tableAB.table.valid = true := by decide +kernel

theorem witness_CaAssign_stale :
    countsAB.errcause = .noError ∧ countsAB.sessionActive = false ∧ countsAB.tree.treeValid = false := by decide
theorem witness_CaAssign_current :
    treeAB.errcause = .noError ∧ treeAB.sessionActive = false ∧ treeAB.TreeCurrent ∧ treeAB.tree.treeValid = true ∧
    2 ≤ leafCount treeAB.fc.freq := ⟨rfl, rfl, fun _ => rfl, rfl, by decide +kernel⟩
/-- The tree of the empty input. -/
def treeNone : State := { State.reset with tree := buildTree State.reset.fc.freq }
/-- The tree of one lone symbol (TV-L1-2). -/
def treeLone : State :=
  { State.reset with
    fc := { freq := writeSym (Arr.replicate 256 0) 0x7A 9, total := 9 }
    tree := buildTree (writeSym (Arr.replicate 256 0) 0x7A 9) }
theorem witness_Degenerate_none :
    treeNone.errcause = .noError ∧ treeNone.sessionActive = false ∧ treeNone.TreeCurrent ∧
    treeNone.tree.treeValid = true ∧ presentSymbols treeNone.fc.freq = [] :=
  ⟨rfl, rfl, fun _ => rfl, rfl, by decide +kernel⟩
theorem witness_Degenerate_lone :
    treeLone.errcause = .noError ∧ treeLone.sessionActive = false ∧ treeLone.TreeCurrent ∧
    treeLone.tree.treeValid = true ∧ presentSymbols treeLone.fc.freq = [0x7A] :=
  ⟨rfl, rfl, fun _ => rfl, rfl, by decide +kernel⟩
theorem witness_AssignedCodes_walk :
    (treeAB.tree.walk treeAB.tree.root [true]).map (·.symbol) = some 0x62 ∧
    (treeAB.tree.walk treeAB.tree.root [true]).map (·.kind) = some .leaf := by decide +kernel

theorem witness_TableWrites : State.reset.errcause = .noError ∧ State.reset.sessionActive = false := by decide
theorem witness_CtValidate_good :
    State.reset.errcause = .noError ∧ State.reset.sessionActive = false ∧ State.reset.table.PrefixFree := by
  refine ⟨rfl, rfl, fun a b _ ha => absurd ?_ ha⟩
  have h : readSym State.reset.table a = CodeEntry.absent := List.getElem_replicate ..
  simp [CodeTable.codeOf, h, CodeEntry.code, CodeEntry.absent]
theorem witness_CtValidate_bad :
    tableClash.errcause = .noError ∧ tableClash.sessionActive = false ∧ ¬ tableClash.table.PrefixFree :=
  ⟨rfl, rfl, fun h => h 0x61 0x62 (by decide) (by decide) (by decide) (by decide)⟩
theorem witness_SessionGuard_refuses :
    isTableWrite (.ctSetlen 0x61 3) = true ∧ (decAB 9).errcause = .noError ∧
    (decAB 9).unpacker.dstate = .accumulating ∧ encAB.errcause = .noError ∧ encAB.packer.active = true := by decide
theorem witness_SessionGuard_freezes :
    exec (.fcCount 0x61) encAB = .next (after (.fcCount 0x61) encAB) ∧ Instr.fcCount 0x61 ≠ .softReset ∧
    encAB.packer.active = true := ⟨rfl, by decide, rfl⟩
theorem witness_SessionGuard_done :
    isTableWrite .ctValidate = true ∧ (after .deStart tableAB).errcause = .noError ∧
    (after .deStart tableAB).packer.active = false ∧ (after .deStart tableAB).unpacker.dstate ≠ .accumulating := by decide

theorem witness_EnStart :
    tableAB.errcause = .noError ∧ tableAB.tableValid = true ∧ State.reset.errcause = .noError ∧
    State.reset.tableValid = false := by decide
theorem witness_EnSym_idle : tableAB.errcause = .noError ∧ tableAB.packer.active = false := by decide
theorem witness_EnSym_missing :
    encAB.errcause = .noError ∧ encAB.packer.active = true ∧ (encAB.entryOf 0x63).len.toNat = 0 := by decide
theorem witness_EnSym_appends :
    encAB.errcause = .noError ∧ encAB.packer.active = true ∧ (encAB.entryOf 0x62).len.toNat ≠ 0 ∧
    (encAB.packer.accLen.toNat + (encAB.entryOf 0x62).len.toNat) / 8 ≤
      encAB.config.pkDepth.val - encAB.packer.pkq.length := by decide
/-- PKQ full and seven bits pending (the refusals of TV-EN-7 and TV-EN-11). -/
def encFull : State :=
  { encAB with packer := { active := true, acc := 0, accLen := 7, pkq := List.replicate 64 0 } }
theorem witness_EnSym_overflow :
    encFull.errcause = .noError ∧ encFull.packer.active = true ∧ (encFull.entryOf 0x62).len.toNat ≠ 0 ∧
    (encFull.packer.accLen.toNat + (encFull.entryOf 0x62).len.toNat) / 8 >
      encFull.config.pkDepth.val - encFull.packer.pkq.length := by decide
theorem witness_EnFlush_full :
    encFull.errcause = .noError ∧ encFull.PackerClean ∧ encFull.packer.active = true ∧ encFull.packer.accLen ≠ 0 ∧
    encFull.packer.pkq.length = encFull.config.pkDepth.val := by decide
theorem witness_EnFlush_closes :
    encAB.errcause = .noError ∧ encAB.PackerClean ∧ encAB.packer.active = true ∧
    ¬ (encAB.packer.accLen ≠ 0 ∧ encAB.packer.pkq.length = encAB.config.pkDepth.val) := by decide
theorem witness_EnFlush_idle : tableAB.errcause = .noError ∧ tableAB.PackerClean ∧ tableAB.packer.active = false := by
  decide
theorem witness_EncodeSession :
    tableAB.errcause = .noError ∧ tableAB.tableValid = true ∧
    ∀ x ∈ [0x61#8, 0x61#8, 0x61#8, 0x62#8], tableAB.table.codeOf x ≠ [] := by decide

theorem witness_DeStart :
    tableAB.errcause = .noError ∧ tableAB.tableValid = true ∧ tableAB.arg = 0 ∧ (decAB 4).errcause = .noError ∧
    (decAB 4).tableValid = true ∧ (decAB 4).arg ≠ 0 := by decide
theorem witness_DecodeBit_match :
    (decAB 4).unpacker.candLen.toNat ≤ 254 ∧ tableAB.table.codeOf 0x61 = (decAB 4).unpacker.candBits ++ [false] ∧
    ∀ k, k < 256 → tableAB.table.codeOf (BitVec.ofNat 8 k) = (decAB 4).unpacker.candBits ++ [false] → 0x61 ≤ k := by
  decide +kernel
theorem witness_DecodeBit_overflow :
    candNearEnd.unpacker.candLen.toNat = 254 ∧
    ∀ k, k < 256 → candNearEnd.table.codeOf (BitVec.ofNat 8 k) ≠ candNearEnd.unpacker.candBits ++ [true] := by
  decide +kernel
theorem witness_DeByte_done :
    (after .deStart tableAB).errcause = .noError ∧ (after .deStart tableAB).unpacker.dstate = .done := by decide
theorem witness_DeByte_idle : tableAB.errcause = .noError ∧ tableAB.unpacker.dstate = .idle := by decide
theorem witness_DeByte_full :
    decFull.errcause = .noError ∧ decFull.unpacker.dstate = .accumulating ∧
    decFull.config.dkDepth.val < decFull.unpacker.dkq.length + 8 := by decide
theorem witness_DeByte_consumes :
    (decAB 4).errcause = .noError ∧ (decAB 4).unpacker.dstate = .accumulating ∧
    (decAB 4).unpacker.dkq.length + 8 ≤ (decAB 4).config.dkDepth.val ∧ (decAB 4).UnpackerClean := by decide
theorem witness_DeByte_near_end :
    candNearEnd.errcause = .noError ∧ candNearEnd.unpacker.dstate = .accumulating ∧
    candNearEnd.unpacker.dkq.length + 8 ≤ candNearEnd.config.dkDepth.val ∧ candNearEnd.UnpackerClean := by decide
/-- The first-match clause refuses a decoder that queues nothing while the code "0" of 'a' stands in its candidate. -/
theorem test_firstMatches_refuses_unmatched : ¬ tableAB.table.FirstMatches 0 [] [false, true] := fun h => by
  obtain ⟨z, ws, hz, -⟩ := h.1 [] [] [false] [true] 0x61 rfl rfl (by decide) (by decide) (by decide)
  cases hz
theorem witness_DeEnd :
    (decAB 9).errcause = .noError ∧ (decAB 9).unpacker.dstate = .accumulating ∧ tableAB.unpacker.dstate = .idle ∧
    (after .deEnd (decAB 9)).unpacker.dstate = .failed := by decide
theorem witness_DecoderTransition_done :
    exec .deStart tableAB = .next (after .deStart tableAB) ∧
    (after .deStart tableAB).unpacker.dstate ≠ tableAB.unpacker.dstate := ⟨rfl, by decide⟩
theorem witness_DecoderTransition_failed :
    exec .deEnd (decAB 9) = .next (after .deEnd (decAB 9)) ∧
    (after .deEnd (decAB 9)).unpacker.dstate ≠ (decAB 9).unpacker.dstate := ⟨rfl, by decide⟩

theorem witness_DecodeInvertsEncodeSession :
    tableAB.errcause = .noError ∧ tableAB.tableValid = true ∧ tableAB.TableChecked ∧
    (∀ x ∈ [0x61#8, 0x61#8, 0x61#8, 0x62#8], tableAB.table.codeOf x ≠ []) ∧ [0x61#8, 0x61#8, 0x61#8, 0x62#8].length < 2 ^ 32 := by
  decide +kernel
theorem witness_ShortStream : 0 < (encodeStream [0x61, 0x61, 0x61, 0x62] tableAB).1.length := by decide +kernel
theorem witness_EmptyInput : State.reset.errcause = .noError ∧ State.reset.sessionActive = false := by decide
theorem witness_DrainedFifos :
    encAB.errcause = .noError ∧ encAB.packer.pkq = [] ∧ (decAB 4).errcause = .noError ∧ (decAB 4).unpacker.dkq = [] := by
  decide
theorem witness_Loadcode : tableAB.errcause = .noError ∧ tableAB.sessionActive = false := by decide
theorem witness_Rederived :
    State.reset.errcause = .noError ∧ State.reset.sessionActive = false ∧ [0x61#8, 0x62#8].length ≤ maxTotal := by decide
theorem witness_StepKeepsInvariant :
    ({ countsAB with pending := [.reset] } : State).Inv ∧
    step { countsAB with pending := [.reset] } = .next State.reset := ⟨by decide +kernel, rfl⟩

end Sys2Proof.Tests
end

section
/-! Every command and every host action answers a next state.  One lemma per control operation the model's rules are built
from (the gate, the session guard, a check, the end of the command cycle) says that it answers whenever its parts do; each
command's proof then follows the checks of its rule. -/

namespace Sys2Proof.Proofs

open Sys2Proof Sys2Proof.Machine Sys2Proof.Laws

/-! ### The control operations -/

/-- A check of a rule answers when both its outcomes do. -/
theorem ite_answers_next {p : Prop} [Decidable p] {a b : Result} (ha : ∃ t, a = .next t) (hb : ∃ t, b = .next t) :
    ∃ t, (if p then a else b) = .next t := by
  split
  · exact ha
  · exact hb

/-- R98: a discarded command answers too. -/
theorem gated_answers_next {s : State} {body : State → Result} (h : ∃ t, body s = .next t) :
    ∃ t, s.gated body = .next t :=
  ite_answers_next h ⟨s, rfl⟩

/-- R181: a command refused by the session guard answers too. -/
theorem guarded_answers_next {s : State} {body : State → Result} (h : ∃ t, body s = .next t) :
    ∃ t, s.guarded body = .next t :=
  ite_answers_next ⟨s.raise .sequence, rfl⟩ h

theorem finishCommand_answers_next {r : Result} (h : ∃ t, r = .next t) : ∃ t, finishCommand r = .next t := by
  obtain ⟨t, rfl⟩ := h
  exact ⟨_, finishCommand_next t⟩

/-! ### The commands -/

/-- R221: DE_BYTE answers whether its bits were consumed or the candidate overflowed. -/
theorem execDeByte_answers_next (byte : Byte) (s : State) : ∃ t, execDeByte byte s = .next t := by
  refine gated_answers_next (ite_answers_next ⟨_, rfl⟩ (ite_answers_next ⟨_, rfl⟩ (ite_answers_next ⟨_, rfl⟩ ?_)))
  cases s.unpacker.decodeBits s.table (byteBits byte) with
  | ok u => exact ⟨_, rfl⟩
  | overflow u => exact ⟨_, rfl⟩

theorem exec_answers_next (i : Instr) (s : State) : ∃ t, exec i s = .next t := by
  unfold exec
  cases i with
  | nop | softReset | clrErr | fcRead | tbReadw | tbReadn | ctReadlen | ctReadbits => exact ⟨_, rfl⟩
  | fcClear | tbBuild => exact gated_answers_next ⟨_, rfl⟩
  | fcCount | fcSet | enStart | deStart => exact gated_answers_next (ite_answers_next ⟨_, rfl⟩ ⟨_, rfl⟩)
  | ctClear | ctSetlen | ctSetbits | ctValidate => exact gated_answers_next (guarded_answers_next ⟨_, rfl⟩)
  | caAssign => exact gated_answers_next (guarded_answers_next (ite_answers_next ⟨_, rfl⟩ ⟨_, rfl⟩))
  | enSym =>
    exact gated_answers_next (ite_answers_next ⟨_, rfl⟩ (ite_answers_next ⟨_, rfl⟩ (ite_answers_next ⟨_, rfl⟩ ⟨_, rfl⟩)))
  | enFlush | deEnd => exact gated_answers_next (ite_answers_next ⟨_, rfl⟩ (ite_answers_next ⟨_, rfl⟩ ⟨_, rfl⟩))
  | deByte byte => exact execDeByte_answers_next byte s

/-! ### The port -/

/-- R97: the command cycle answers for every word, decodable or not. -/
theorem issue_answers_next (w : Word) (s : State) : ∃ t, issue w s = .next t := by
  refine finishCommand_answers_next ?_
  cases decode w with
  | instr i => exact exec_answers_next i _
  | rejected _ => exact ⟨_, rfl⟩

theorem writeReg_answers_next (off : Offset) (v : Word) (s : State) : ∃ t, writeReg off v s = .next t := by
  unfold writeReg
  split
  · exact issue_answers_next v s
  · exact ⟨_, rfl⟩
  · exact ⟨_, rfl⟩

theorem perform_answers_next (a : HostAction) (s : State) : ∃ t, perform a s = .next t := by
  cases a with
  | write off size v => exact ite_answers_next (writeReg_answers_next off v s) ⟨_, rfl⟩
  | read off size => exact ite_answers_next ⟨_, rfl⟩ ⟨_, rfl⟩
  | reset => exact ⟨_, rfl⟩

/-- R70, R71, R265: idle, held by BUSY or performing an action, the port answers. -/
theorem hostStep_answers_next (s : State) : ∃ t, hostStep s = .next t := by
  unfold hostStep
  split
  · exact ⟨_, rfl⟩
  · exact ite_answers_next ⟨_, rfl⟩ (perform_answers_next _ _)

/-- Settles O8: a step is the port's, which answers for every action because every command does. -/
theorem everyStepAnswersNextState : Obligations.EveryStepAnswersNextState := hostStep_answers_next

end Sys2Proof.Proofs
end

section
/-! What one command and one step can do to the state, said once: `Effect` lists the outcomes of the commands' rules and
`PortEffect` those of the host's actions.  The unit frames and the invariants are case splits on these two. -/

namespace Sys2Proof.Proofs

open Sys2Proof Sys2Proof.Machine Sys2Proof.Laws

/-! ### The commands -/

/-- What command `i` can make of state `s`, one constructor per outcome of the rules, each with the checks passed on the way
that an invariant needs. -/
inductive Effect (s : State) : Instr → State → Prop
  /-- Discarded by the gate (R98), or a rule that keeps the state: NOP (R120), DE_BYTE and DE_END in DONE (R221, R222). -/
  | kept (i : Instr) : Effect s i s
  /-- A check of the rule failed and nothing else was done (R254). -/
  | refused {i : Instr} (e : ErrCause) (hi : isQuery i = false) : Effect s i (s.raise e)
  | softReset : Effect s .softReset s.resetState
  | clrErr : Effect s .clrErr s.clearError
  /-- The five queries (R29). -/
  | answered {i : Instr} (v : Word) (hi : isQuery i = true) : Effect s i (s.setResult v)
  | fcClear : Effect s .fcClear
      { s with fc := { freq := Arr.replicate 256 0, total := 0 }, tree := { s.tree with treeValid := false } }
  | fcCount (x : Symbol) (hroom : s.fc.total.toNat ≠ maxTotal) :
      Effect s (.fcCount x) (s.setFreq x (s.freqOf x + 1) (s.fc.total + 1))
  | fcSet (x : Symbol) (hroom : (s.fc.total.toNat - (s.freqOf x).toNat + s.arg.toNat : Int) ≤ maxTotal) :
      Effect s (.fcSet x)
        (s.setFreq x s.arg (BitVec.ofInt 32 (s.fc.total.toNat - (s.freqOf x).toNat + s.arg.toNat)))
  | tbBuild : Effect s .tbBuild { s with tree := buildTree s.fc.freq }
  | caAssign (hidle : s.sessionActive = false) : Effect s .caAssign { s with table := s.tree.codes }.validateTable
  | ctClear (hidle : s.sessionActive = false) :
      Effect s .ctClear { s with table := CodeTable.empty, tableValid := false }
  /-- CT_SETLEN and CT_SETBITS (R174, R175). -/
  | entrySet {i : Instr} (x : Symbol) (e : CodeEntry) (hi : isTableWrite i = true) (hidle : s.sessionActive = false) :
      Effect s i (s.setEntry x e)
  | ctValidate (hidle : s.sessionActive = false) : Effect s .ctValidate s.validateTable
  | enStart (hvalid : s.tableValid = true) :
      Effect s .enStart { s with packer := { active := true, acc := 0, accLen := 0, pkq := [] } }
  | enMissing (x : Symbol) : Effect s (.enSym x) (s.abortEncode.raise .missingCode)
  | enSym (x : Symbol) (hactive : s.packer.active = true)
      (hroom : (s.packer.accLen.toNat + (s.entryOf x).len.toNat) / 8 ≤ s.config.pkDepth.val - s.packer.pkq.length) :
      Effect s (.enSym x) { s with packer := s.packer.appendBits (s.entryOf x).code }
  | enFlush (hroom : ¬ (s.packer.accLen ≠ 0 ∧ s.packer.pkq.length = s.config.pkDepth.val)) :
      Effect s .enFlush
        { s with packer := { active := false, acc := 0, accLen := 0,
                             pkq := if s.packer.accLen ≠ 0 then s.packer.pkq ++ [s.packer.acc] else s.packer.pkq } }
  | deStart (hvalid : s.tableValid = true) :
      Effect s .deStart
        { s with unpacker := { dstate := if s.arg = 0 then .done else .accumulating
                               cand := 0, candLen := 0, decCount := 0, decTarget := s.arg, dkq := [] } }
  | deByte (byte : Byte) (u : Unpacker) (hopen : s.unpacker.dstate = .accumulating)
      (hroom : 8 ≤ s.config.dkDepth.val - s.unpacker.dkq.length)
      (hu : s.unpacker.decodeBits s.table (byteBits byte) = .ok u) :
      Effect s (.deByte byte) { s with unpacker := u }
  | deOverflow (byte : Byte) (u : Unpacker) (hopen : s.unpacker.dstate = .accumulating)
      (hu : s.unpacker.decodeBits s.table (byteBits byte) = .overflow u) :
      Effect s (.deByte byte) ({ s with unpacker := u }.abortDecode.raise .candOverflow)
  | deEnd : Effect s .deEnd (s.abortDecode.raise .truncated)

/-- Whatever next state `r` answers satisfies `P`. -/
def EndsIn (P : State → Prop) (r : Result) : Prop := ∀ t, r = .next t → P t

section
variable {P : State → Prop} {s t : State} {body : State → Result}

theorem endsIn_next (h : P t) : EndsIn P (.next t) := fun _ e => by injection e with e; exact e ▸ h

theorem endsIn_ite {p : Prop} [Decidable p] {a b : Result} (ha : p → EndsIn P a) (hb : ¬ p → EndsIn P b) :
    EndsIn P (if p then a else b) := by
  split
  · exact ha ‹_›
  · exact hb ‹_›

theorem endsIn_gated (hs : P s) (h : EndsIn P (body s)) : EndsIn P (s.gated body) := by
  intro t ht
  rcases gated_cases ht with ⟨-, rfl⟩ | ⟨-, ht⟩
  · exact hs
  · exact h t ht

theorem endsIn_guarded (hs : P (s.raise .sequence)) (h : s.sessionActive = false → EndsIn P (body s)) :
    EndsIn P (s.guarded body) := by
  intro t ht
  rcases guarded_cases ht with ⟨-, rfl⟩ | ⟨hidle, ht⟩
  · exact hs
  · exact h hidle t ht

end

/-- The gate before a command with an effect of its own. -/
theorem effect_of_gated {s : State} {i : Instr} {body : State → Result} (h : EndsIn (Effect s i) (body s)) :
    EndsIn (Effect s i) (s.gated body) :=
  endsIn_gated (.kept i) h

/-- A check that refuses the command with cause `e`. -/
theorem effect_of_check {s : State} {i : Instr} {p : Prop} [Decidable p] {e : ErrCause} {r : Result}
    (hi : isQuery i = false) (h : ¬ p → EndsIn (Effect s i) r) :
    EndsIn (Effect s i) (if p then .next (s.raise e) else r) :=
  endsIn_ite (fun _ => endsIn_next (.refused e hi)) h

/-- A check that a command must meet, else it is refused with cause `e`. -/
theorem effect_of_guard {s : State} {i : Instr} {p : Prop} [Decidable p] {e : ErrCause} {r : Result}
    (hi : isQuery i = false) (h : p → EndsIn (Effect s i) r) :
    EndsIn (Effect s i) (if p then r else .next (s.raise e)) :=
  endsIn_ite h fun _ => endsIn_next (.refused e hi)

/-- The gate and the session guard before a table-writing command (R181). -/
theorem effect_of_tableWrite {s : State} {i : Instr} {body : State → Result} (hi : isQuery i = false)
    (h : s.sessionActive = false → EndsIn (Effect s i) (body s)) :
    EndsIn (Effect s i) (s.gated fun s => s.guarded body) :=
  effect_of_gated (endsIn_guarded (.refused _ hi) h)

theorem execEnSym_effect (x : Symbol) (s : State) : EndsIn (Effect s (.enSym x)) (execEnSym x s) := by
  refine effect_of_gated (effect_of_check rfl fun hactive => endsIn_ite (fun _ => endsIn_next (.enMissing x)) fun _ =>
    effect_of_check rfl fun hroom => endsIn_next (.enSym x ?_ (Nat.le_of_not_lt hroom)))
  simpa using hactive

theorem execDeByte_effect (byte : Byte) (s : State) : EndsIn (Effect s (.deByte byte)) (execDeByte byte s) := by
  refine effect_of_gated (endsIn_ite (fun _ => endsIn_next (.kept _)) fun _ => effect_of_check rfl fun hopen =>
    effect_of_check rfl fun hroom => ?_)
  have hopen := not_not.mp hopen
  cases hu : s.unpacker.decodeBits s.table (byteBits byte) with
  | ok u => exact endsIn_next (.deByte byte u hopen (Nat.le_of_not_lt hroom) hu)
  | overflow u => exact endsIn_next (.deOverflow byte u hopen hu)

/-- Everything a command can do. -/
theorem exec_effect {i : Instr} {s t : State} (h : exec i s = .next t) : Effect s i t := by
  refine (?_ : EndsIn (Effect s i) (exec i s)) t h
  unfold exec
  cases i with
  | nop => exact endsIn_next (.kept _)
  | softReset => exact endsIn_next .softReset
  | clrErr => exact endsIn_next .clrErr
  | fcRead | tbReadw | tbReadn | ctReadlen | ctReadbits => exact endsIn_next (.answered _ rfl)
  | fcClear => exact effect_of_gated (endsIn_next .fcClear)
  | fcCount x => exact effect_of_gated (effect_of_check rfl fun hroom => endsIn_next (.fcCount x hroom))
  | fcSet x => exact effect_of_gated (effect_of_check rfl fun hroom => endsIn_next (.fcSet x (Int.not_lt.mp hroom)))
  | tbBuild => exact effect_of_gated (endsIn_next .tbBuild)
  | caAssign => exact effect_of_tableWrite rfl fun hidle => effect_of_guard rfl fun _ => endsIn_next (.caAssign hidle)
  | ctClear => exact effect_of_tableWrite rfl fun hidle => endsIn_next (.ctClear hidle)
  | ctSetlen | ctSetbits => exact effect_of_tableWrite rfl fun hidle => endsIn_next (.entrySet _ _ rfl hidle)
  | ctValidate => exact effect_of_tableWrite rfl fun hidle => endsIn_next (.ctValidate hidle)
  | enStart => exact effect_of_gated (effect_of_guard rfl fun hvalid => endsIn_next (.enStart hvalid))
  | enSym x => exact execEnSym_effect x s
  | enFlush =>
    exact effect_of_gated (effect_of_check rfl fun _ => effect_of_check rfl fun hroom => endsIn_next (.enFlush hroom))
  | deStart => exact effect_of_gated (effect_of_guard rfl fun hvalid => endsIn_next (.deStart hvalid))
  | deByte byte => exact execDeByte_effect byte s
  | deEnd =>
    exact effect_of_gated (endsIn_ite (fun _ => endsIn_next (.kept _)) fun _ =>
      effect_of_check rfl fun _ => endsIn_next .deEnd)

end Sys2Proof.Proofs
end

section
/-! The units' frames: which commands write which part of the state. -/

namespace Sys2Proof.Proofs

open Sys2Proof Sys2Proof.Machine Sys2Proof.Laws

variable {s t : State} {i : Instr}

theorem not_isQuery_of_isTableWrite (h : isTableWrite i = true) : isQuery i = false := by
  cases i with
  | caAssign | ctClear | ctSetlen | ctSetbits | ctValidate => rfl
  | _ => cases h

/-- R26: no command but SOFT_RESET writes ARG or what belongs to the implementation and the host. -/
theorem effect_port (h : Effect s i t) (hi : i ≠ .softReset) :
    t.arg = s.arg ∧ t.config = s.config ∧ t.pending = s.pending ∧ t.responses = s.responses ∧ t.busy = s.busy := by
  cases h with
  | softReset => exact absurd rfl hi
  | _ => simp

/-- R29: RESULT is written by the queries alone. -/
theorem effect_result (h : Effect s i t) (hi : i ≠ .softReset) (hq : isQuery i = false) : t.result = s.result := by
  cases h with
  | softReset => exact absurd rfl hi
  | answered v hi => simp [hi] at hq
  | _ => simp

/-- R29: a query writes RESULT alone. -/
theorem effect_query (h : Effect s i t) (hq : isQuery i = true) : t = { s with result := t.result } := by
  cases h with
  | kept | answered => rfl
  | refused e hi => simp [hi] at hq
  | entrySet x e hi => simp [not_isQuery_of_isTableWrite hi] at hq
  | _ => cases hq

/-- R40, R130 to R132: FREQ and TOTAL are written by the FC commands alone. -/
theorem effect_fc (h : Effect s i t) (hi : i ≠ .softReset) (hcount : ∀ x, i ≠ .fcCount x) (hset : ∀ x, i ≠ .fcSet x)
    (hclear : i ≠ .fcClear) : t.fc = s.fc := by
  cases h with
  | softReset => exact absurd rfl hi
  | fcCount x => exact absurd rfl (hcount x)
  | fcSet x => exact absurd rfl (hset x)
  | fcClear => exact absurd rfl hclear
  | _ => simp

/-- R42, R43: the FC commands write TREE_VALID of the tree and TB_BUILD all of it; no other command writes any of it. -/
theorem effect_tree (h : Effect s i t) (hi : i ≠ .softReset) (hcount : ∀ x, i ≠ .fcCount x) (hset : ∀ x, i ≠ .fcSet x)
    (hclear : i ≠ .fcClear) (hbuild : i ≠ .tbBuild) : t.tree = s.tree := by
  cases h with
  | softReset => exact absurd rfl hi
  | fcCount x => exact absurd rfl (hcount x)
  | fcSet x => exact absurd rfl (hset x)
  | fcClear => exact absurd rfl hclear
  | tbBuild => exact absurd rfl hbuild
  | _ => simp

/-- R42, R43: no command but TB_BUILD writes more of the tree than TREE_VALID. -/
theorem effect_arena (h : Effect s i t) (hi : i ≠ .softReset) (hbuild : i ≠ .tbBuild) :
    { t.tree with treeValid := s.tree.treeValid } = s.tree := by
  cases h with
  | softReset => exact absurd rfl hi
  | tbBuild => exact absurd rfl hbuild
  | _ => simp

/-- R44, R45: the table is written by the five table-writing commands alone. -/
theorem effect_table (h : Effect s i t) (hi : i ≠ .softReset) (hw : isTableWrite i = false) :
    t.table = s.table ∧ t.tableValid = s.tableValid := by
  cases h with
  | softReset => exact absurd rfl hi
  | caAssign | ctClear | ctValidate => cases hw
  | entrySet x e hi => simp [hi] at hw
  | _ => simp

/-- R47: the packer is written by the EN commands alone. -/
theorem effect_packer (h : Effect s i t) (hi : i ≠ .softReset) (hstart : i ≠ .enStart) (hflush : i ≠ .enFlush)
    (hsym : ∀ x, i ≠ .enSym x) : t.packer = s.packer := by
  cases h with
  | softReset => exact absurd rfl hi
  | enStart => exact absurd rfl hstart
  | enFlush => exact absurd rfl hflush
  | enMissing x | enSym x => exact absurd rfl (hsym x)
  | _ => simp

/-- R48: the unpacker is written by the DE commands alone. -/
theorem effect_unpacker (h : Effect s i t) (hi : i ≠ .softReset) (hstart : i ≠ .deStart) (hend : i ≠ .deEnd)
    (hbyte : ∀ b, i ≠ .deByte b) : t.unpacker = s.unpacker := by
  cases h with
  | softReset => exact absurd rfl hi
  | deStart => exact absurd rfl hstart
  | deEnd => exact absurd rfl hend
  | deByte b | deOverflow b => exact absurd rfl (hbyte b)
  | _ => simp

/-- Settles O25: the frames of the units, each read off the outcomes of the commands. -/
theorem commandsWriteOnlyTheirUnit : Obligations.CommandsWriteOnlyTheirUnit := by
  intro i s t h hi
  have h := exec_effect h
  obtain ⟨harg, hconfig, hpending, hresponses, hbusy⟩ := effect_port h hi
  exact ⟨harg, hconfig, hpending, hresponses, hbusy, effect_result h hi, effect_query h,
    fun hcount hset hclear => ⟨effect_fc h hi hcount hset hclear, effect_tree h hi hcount hset hclear⟩,
    effect_arena h hi, effect_table h hi, effect_packer h hi, effect_unpacker h hi⟩

end Sys2Proof.Proofs
end

section
/-! One step of the port, said once, and the induction step every invariant of the units is proved by. -/

namespace Sys2Proof.Proofs

open Sys2Proof Sys2Proof.Machine Sys2Proof.Laws

/-- A read of PK_OUT leaves the rest of PKQ (R30). -/
theorem popPk_state (s : State) :
    s.popPk.2 = { s with packer := { s.packer with pkq := s.packer.pkq.tail } } := by
  cases h : s.packer.pkq with
  | nil => rw [popPk_nil h, List.tail_nil, ← h]
  | cons b q => simp [popPk_cons h]

/-- A read of DK_OUT leaves the rest of DKQ (R31). -/
theorem popDk_state (s : State) :
    s.popDk.2 = { s with unpacker := { s.unpacker with dkq := s.unpacker.dkq.tail } } := by
  cases h : s.unpacker.dkq with
  | nil => rw [popDk_nil h, List.tail_nil, ← h]
  | cons x q => simp [popDk_cons h]

/-- R65: a read of any other register has no side effect. -/
theorem readReg_state {off : Offset} (s : State) (hpk : off ≠ pkOutOffset) (hdk : off ≠ dkOutOffset) :
    (readReg off s).2 = s := by
  unfold readReg
  split
  case h_7 h => exact absurd (BitVec.eq_of_toNat_eq h) hpk
  case h_8 h => exact absurd (BitVec.eq_of_toNat_eq h) hdk
  all_goals rfl

/-- What one host action can make of state `s` (R61). -/
inductive PortEffect (s : State) : State → Prop
  /-- A write that R38, R62 or R67 ignores. -/
  | ignored : PortEffect s s
  | reset : PortEffect s s.resetState
  | argWritten (v : Word) : PortEffect s { s with arg := v }
  | answered (v : Word) : PortEffect s (respond v s)
  | poppedPk (v : Word) :
      PortEffect s (respond v { s with packer := { s.packer with pkq := s.packer.pkq.tail } })
  | poppedDk (v : Word) :
      PortEffect s (respond v { s with unpacker := { s.unpacker with dkq := s.unpacker.dkq.tail } })
  /-- The command cycle (R97). -/
  | command {i : Instr} {u : State} (h : Effect { s with busy := true } i u) : PortEffect s { u with busy := false }
  | illegal : PortEffect s { { s with busy := true }.raise .illegalCmd with busy := false }

theorem readReg_effect (off : Offset) (s : State) (v : Word) : PortEffect s (respond v (readReg off s).2) := by
  by_cases hpk : off = pkOutOffset
  · rw [hpk, show readReg pkOutOffset s = s.popPk from rfl, popPk_state]
    exact .poppedPk v
  by_cases hdk : off = dkOutOffset
  · rw [hdk, show readReg dkOutOffset s = s.popDk from rfl, popDk_state]
    exact .poppedDk v
  rw [readReg_state s hpk hdk]
  exact .answered v

theorem issue_effect {w : Word} {s t : State} (h : issue w s = .next t) : PortEffect s t := by
  obtain ⟨u, hu, rfl⟩ := finishCommand_cases h
  cases hd : decode w with
  | instr i =>
    rw [hd] at hu
    exact .command (exec_effect hu)
  | rejected e =>
    rw [hd] at hu
    injection hu with hu
    exact hu ▸ .illegal

theorem writeReg_effect {off : Offset} {v : Word} {s t : State} (h : writeReg off v s = .next t) : PortEffect s t := by
  unfold writeReg at h
  split at h
  · exact issue_effect h
  · injection h with h
    exact h ▸ .argWritten v
  · injection h with h
    exact h ▸ .ignored

/-- Everything one host action can do. -/
theorem perform_effect {a : HostAction} {s t : State} (h : perform a s = .next t) : PortEffect s t := by
  cases a with
  | write off size v =>
    refine endsIn_ite (P := PortEffect s) (fun _ t h => writeReg_effect h) (fun _ => endsIn_next .ignored) t h
  | read off size =>
    exact endsIn_ite (P := PortEffect s) (fun _ => endsIn_next (readReg_effect off s _))
      (fun _ => endsIn_next (.answered _)) t h
  | reset => exact endsIn_next (P := PortEffect s) .reset t h

/-- Everything a step can do: stay idle (R265), return BUSY to 0 (R71), or perform the first pending action (R70). -/
theorem step_cases {s t : State} (h : step s = .next t) :
    t = s ∨ (s.busy = true ∧ t = { s with busy := false }) ∨ ∃ rest, PortEffect { s with pending := rest } t := by
  unfold step hostStep at h
  split at h
  · injection h with h
    exact .inl h.symm
  · next a rest _ =>
    split at h
    · next hheld =>
      injection h with h
      exact .inr (.inl ⟨(Bool.and_eq_true_iff.mp hheld).1, h.symm⟩)
    · exact .inr (.inr ⟨rest, perform_effect h⟩)

/-- The two states agree on everything but ARG, RESULT, ERRCAUSE, BUSY and the host port. -/
structure SameUnits (s t : State) : Prop where
  config : t.config = s.config
  fc : t.fc = s.fc
  tree : t.tree = s.tree
  table : t.table = s.table
  tableValid : t.tableValid = s.tableValid
  packer : t.packer = s.packer
  unpacker : t.unpacker = s.unpacker

/-- A property of the units that every command and the two pops keep is kept by every step. -/
theorem step_keeps {P : State → Prop} (hunits : ∀ {s t : State}, SameUnits s t → P s → P t)
    (heffect : ∀ {s t : State} {i : Instr}, Effect s i t → P s → P t)
    (hpk : ∀ {s : State}, P s → P { s with packer := { s.packer with pkq := s.packer.pkq.tail } })
    (hdk : ∀ {s : State}, P s → P { s with unpacker := { s.unpacker with dkq := s.unpacker.dkq.tail } })
    {s t : State} (hs : P s) (h : step s = .next t) : P t := by
  have hport : ∀ {u : State} (b : Bool) (as : List HostAction) (vs : List Word) (v : Word), P u →
      P { u with busy := b, pending := as, responses := vs, arg := v } :=
    fun _ _ _ _ => hunits ⟨rfl, rfl, rfl, rfl, rfl, rfl, rfl⟩
  rcases step_cases h with rfl | ⟨-, rfl⟩ | ⟨rest, h⟩
  · exact hs
  · exact hport _ _ _ _ hs
  · have hrest : P { s with pending := rest } := hport _ _ _ _ hs
    cases h with
    | ignored => exact hrest
    | reset => exact heffect .softReset hrest
    | argWritten v => exact hport _ _ _ _ hrest
    | answered v => exact hport _ _ _ _ hrest
    | poppedPk v => exact hport _ _ _ _ (hpk hrest)
    | poppedDk v => exact hport _ _ _ _ (hdk hrest)
    | command heff => exact hport _ _ _ _ (heffect heff (hport _ _ _ _ hrest))
    | illegal => exact hunits (by constructor <;> simp) hrest

/-- R71: no step leaves BUSY = 1 behind. -/
theorem step_busy {s t : State} (hs : s.busy = false) (h : step s = .next t) : t.busy = false := by
  rcases step_cases h with rfl | ⟨-, rfl⟩ | ⟨rest, h⟩
  · exact hs
  · rfl
  · cases h with
    | reset | command | illegal => rfl
    | _ => exact hs

end Sys2Proof.Proofs
end

section
/-! The invariant of the counts (R41): FC_CLEAR, FC_COUNT and FC_SET keep TOTAL equal to the sum of the counts. -/

namespace Sys2Proof.Proofs

open Sys2Proof Sys2Proof.Machine Sys2Proof.Laws

/-- Writing one count changes the sum by the difference. -/
theorem sumOf_writeSym (f : Arr Word 256) (x : Symbol) (c : Word) :
    sumOf (writeSym f x c) + (readSym f x).toNat = sumOf f + c.toNat := by
  have hx : x.toNat < f.toList.length := f.length_toList.symm ▸ x.isLt
  have hsplit : ∀ d : Word, ((f.toList.set x.toNat d).map BitVec.toNat).sum =
      ((f.toList.take x.toNat).map BitVec.toNat).sum + d.toNat +
        ((f.toList.drop (x.toNat + 1)).map BitVec.toNat).sum := by
    intro d
    simp [List.set_eq_take_append_cons_drop, hx, Nat.add_assoc]
  have hself : f.toList.set x.toNat (readSym f x) = f.toList := List.set_getElem_self hx
  have hold := hsplit (readSym f x)
  rw [hself] at hold
  have hnew := hsplit c
  simp only [sumOf, writeSym]
  omega

theorem readSym_le_sumOf (f : Arr Word 256) (x : Symbol) : (readSym f x).toNat ≤ sumOf f :=
  List.le_sum_of_mem (List.mem_map_of_mem (List.getElem_mem _))

@[simp] theorem sumOf_replicate_zero : sumOf (Arr.replicate 256 0) = 0 := by
  rw [sumOf, Arr.replicate, List.map_replicate, List.sum_replicate]
  rfl

variable {s t : State} {i : Instr}

/-- R131: below 2^32 − 1 neither the count nor TOTAL wraps. -/
theorem countsAgree_fcCount (hs : s.CountsAgree) (x : Symbol) (hroom : s.fc.total.toNat ≠ maxTotal) :
    (s.setFreq x (s.freqOf x + 1) (s.fc.total + 1)).CountsAgree := by
  have hsum := sumOf_writeSym s.fc.freq x (s.freqOf x + 1)
  have hle := readSym_le_sumOf s.fc.freq x
  have htotal := s.fc.total.isLt
  have hone : (1 : Word).toNat = 1 := rfl
  simp only [State.CountsAgree, setFreq_fc, State.freqOf, maxTotal, BitVec.toNat_add] at *
  omega

/-- R132: the new sum is computed exactly and fits. -/
theorem countsAgree_fcSet (hs : s.CountsAgree) (x : Symbol)
    (hroom : (s.fc.total.toNat - (s.freqOf x).toNat + s.arg.toNat : Int) ≤ maxTotal) :
    (s.setFreq x s.arg (BitVec.ofInt 32 (s.fc.total.toNat - (s.freqOf x).toNat + s.arg.toNat))).CountsAgree := by
  have hsum := sumOf_writeSym s.fc.freq x s.arg
  have hle := readSym_le_sumOf s.fc.freq x
  simp only [State.CountsAgree, setFreq_fc, State.freqOf, maxTotal, BitVec.toNat_ofInt] at *
  omega

theorem effect_keeps_countsAgree (h : Effect s i t) (hs : s.CountsAgree) : t.CountsAgree := by
  cases h with
  | softReset | fcClear => exact sumOf_replicate_zero.symm
  | fcCount x hroom => exact countsAgree_fcCount hs x hroom
  | fcSet x hroom => exact countsAgree_fcSet hs x hroom
  | _ => simpa [State.CountsAgree] using hs

/-- Settles O29: only the FC commands and the resets write the counts. -/
theorem stepKeepsCountInvariant : Obligations.StepKeepsCountInvariant := by
  intro s t hs h
  exact step_keeps (P := State.CountsAgree) (fun hu hs => by rw [State.CountsAgree, hu.fc]; exact hs)
    effect_keeps_countsAgree id id hs h

end Sys2Proof.Proofs
end

section
/-! The shape of the tree that TB_BUILD makes (R150 to R155): the merge loop keeps a forest whose roots are the queue, so one
root is left in the end, the last node written. -/

namespace Sys2Proof.Proofs

open Sys2Proof Sys2Proof.Machine Sys2Proof.Laws

/-! ### The nodes written so far -/

/-- NODE[k] among the nodes written so far, the all-zero entry past them (R42). -/
def nodeIn (nodes : List Node) (k : Nat) : Node := nodes[k]?.getD Node.zero

/-- Node k has node j as a child, among the nodes written so far. -/
def ChildIn (nodes : List Node) (k j : Nat) : Prop :=
  (nodeIn nodes k).kind = .internal ∧ ((nodeIn nodes k).left.toNat = j ∨ (nodeIn nodes k).right.toNat = j)

variable {nodes : List Node} {pq : List Nat}

theorem nodeIn_of_length_le {k : Nat} (h : nodes.length ≤ k) : nodeIn nodes k = Node.zero := by
  simp [nodeIn, h]

theorem nodeIn_append_of_lt {k : Nat} (n : Node) (h : k < nodes.length) : nodeIn (nodes ++ [n]) k = nodeIn nodes k := by
  simp [nodeIn, List.getElem?_append_left h]

@[simp] theorem nodeIn_append_length (n : Node) : nodeIn (nodes ++ [n]) nodes.length = n := by
  simp [nodeIn]

theorem lt_length_of_childIn {k j : Nat} (h : ChildIn nodes k j) : k < nodes.length := by
  by_contra hk
  have hkind := h.1
  rw [nodeIn_of_length_le (Nat.le_of_not_lt hk)] at hkind
  cases hkind

/-- A join of nodes a and b adds b and a as the children of the new node and changes no other node (R153). -/
theorem childIn_join_iff {a b k j : Nat} (ha : a < 512) (hb : b < 512) :
    ChildIn (nodes ++ [Node.join nodes a b]) k j ↔ ChildIn nodes k j ∨ k = nodes.length ∧ (b = j ∨ a = j) := by
  rcases Nat.lt_trichotomy k nodes.length with hk | rfl | hk
  · simp [ChildIn, nodeIn_append_of_lt _ hk, Nat.ne_of_lt hk]
  · have hold : ¬ ChildIn nodes nodes.length j := fun h => Nat.lt_irrefl _ (lt_length_of_childIn h)
    simp only [hold, false_or, true_and]
    simp [ChildIn, Node.join, Nat.mod_eq_of_lt ha, Nat.mod_eq_of_lt hb]
  · have hnew : ¬ ChildIn (nodes ++ [Node.join nodes a b]) k j := fun h => by
      have := lt_length_of_childIn h
      rw [List.length_append, List.length_singleton] at this
      omega
    have hold : ¬ ChildIn nodes k j := fun h => Nat.lt_asymm hk (lt_length_of_childIn h)
    simp [hnew, hold, Nat.ne_of_gt hk]

/-! ### The queue -/

theorem minKey_mem (nodes : List Node) (i : Nat) (q : List Nat) : minKey nodes i q ∈ i :: q := by
  induction q generalizing i with
  | nil => exact List.mem_singleton.mpr rfl
  | cons j rest ih =>
    rw [minKey]
    rcases List.mem_cons.mp (ih (if keyLt nodes j i then j else i)) with h | h
    · rw [h]
      split <;> simp
    · exact .tail _ (.tail _ h)

/-- ExtractMin answers for every queue but the empty one (R152). -/
theorem extractMin_eq_none_iff : extractMin nodes pq = none ↔ pq = [] := by
  cases pq <;> simp [extractMin]

/-- ExtractMin removes an element of the queue (R152). -/
theorem extractMin_eq_some {a : Nat} {rest : List Nat} (h : extractMin nodes pq = some (a, rest)) :
    a ∈ pq ∧ rest = pq.erase a := by
  cases pq with
  | nil => cases h
  | cons i q =>
    injection h with h
    injection h with ha hrest
    exact ⟨ha ▸ minKey_mem nodes i q, by rw [← hrest, ← ha]⟩

/-! ### The forest -/

/-- The nodes form a forest whose roots are the queue: every node is in the queue or has one parent, and children stand below
their parents, on different sides.  The last node is a root. -/
structure Forest (nodes : List Node) (pq : List Nat) : Prop where
  nodup : pq.Nodup
  lt : ∀ j ∈ pq, j < nodes.length
  last : nodes ≠ [] → nodes.length - 1 ∈ pq
  orphan : ∀ j ∈ pq, ∀ k, ¬ ChildIn nodes k j
  parent : ∀ j, j < nodes.length → j ∉ pq → ∃ k, ChildIn nodes k j ∧ ∀ k', ChildIn nodes k' j → k' = k
  order : ∀ k j, ChildIn nodes k j → j < k ∧ (nodeIn nodes k).left ≠ (nodeIn nodes k).right

/-- Leaves alone, all of them in the queue. -/
theorem forest_leaves (h : ∀ n ∈ nodes, n.kind = .leaf) : Forest nodes (List.range nodes.length) := by
  have hchild : ∀ k j, ¬ ChildIn nodes k j := by
    intro k j hc
    have hk := lt_length_of_childIn hc
    have hkind := hc.1
    rw [nodeIn, List.getElem?_eq_getElem hk, Option.getD_some, h _ (List.getElem_mem hk)] at hkind
    cases hkind
  constructor
  case nodup => exact List.nodup_range
  case lt => exact fun j hj => List.mem_range.mp hj
  case last => exact fun hne => List.mem_range.mpr (Nat.sub_lt (List.length_pos_of_ne_nil hne) Nat.one_pos)
  case orphan => exact fun j _ k => hchild k j
  case parent => exact fun j hj hn => absurd (List.mem_range.mpr hj) hn
  case order => exact fun k j hc => absurd hc (hchild k j)

/-- One merge (R150, R153): two roots become the children of a new root. -/
theorem Forest.merge (hf : Forest nodes pq) (hlen : nodes.length ≤ 512) {a b : Nat} (ha : a ∈ pq)
    (hb : b ∈ pq.erase a) :
    Forest (nodes ++ [Node.join nodes a b]) (nodes.length :: (pq.erase a).erase b) := by
  obtain ⟨hba, hbq⟩ := (hf.nodup.mem_erase_iff).mp hb
  have halt := hf.lt a ha
  have hblt := hf.lt b hbq
  have hchild : ∀ {k j}, ChildIn (nodes ++ [Node.join nodes a b]) k j ↔
      ChildIn nodes k j ∨ k = nodes.length ∧ (b = j ∨ a = j) := childIn_join_iff (by omega) (by omega)
  have hmem : ∀ {j}, j ∈ nodes.length :: (pq.erase a).erase b ↔ j = nodes.length ∨ j ≠ b ∧ j ≠ a ∧ j ∈ pq := by
    intro j
    rw [List.mem_cons, (hf.nodup.erase a).mem_erase_iff, hf.nodup.mem_erase_iff]
  have hlength : (nodes ++ [Node.join nodes a b]).length = nodes.length + 1 := List.length_append
  constructor
  case nodup =>
    refine List.nodup_cons.mpr ⟨fun h => ?_, (hf.nodup.erase a).erase b⟩
    exact Nat.lt_irrefl _ (hf.lt _ (List.mem_of_mem_erase (List.mem_of_mem_erase h)))
  case lt =>
    intro j hj
    rcases hmem.mp hj with rfl | ⟨-, -, hj⟩
    · omega
    · have := hf.lt j hj
      omega
  case last => exact fun _ => hmem.mpr (.inl (by omega))
  case orphan =>
    intro j hj k hc
    rcases hmem.mp hj with rfl | ⟨hjb, hja, hj⟩
    · rcases hchild.mp hc with hc | ⟨-, rfl | rfl⟩
      · have := (hf.order _ _ hc).1
        have := lt_length_of_childIn hc
        omega
      all_goals omega
    · rcases hchild.mp hc with hc | ⟨-, rfl | rfl⟩
      · exact hf.orphan j hj k hc
      · exact hjb rfl
      · exact hja rfl
  case parent =>
    intro j hj hn
    by_cases hjoined : b = j ∨ a = j
    · have hroot : j ∈ pq := by rcases hjoined with rfl | rfl <;> assumption
      refine ⟨nodes.length, hchild.mpr (.inr ⟨rfl, hjoined⟩), fun k' hc => ?_⟩
      exact (hchild.mp hc).elim (fun hc => absurd hc (hf.orphan j hroot k')) (·.1)
    · obtain ⟨hjb, hja⟩ := not_or.mp hjoined
      have hjn : j ≠ nodes.length := fun h => hn (hmem.mpr (.inl h))
      obtain ⟨k, hk, huniq⟩ := hf.parent j (by omega)
        fun hjq => hn (hmem.mpr (.inr ⟨Ne.symm hjb, Ne.symm hja, hjq⟩))
      exact ⟨k, hchild.mpr (.inl hk), fun k' hc =>
        (hchild.mp hc).elim (huniq k') fun ⟨_, h⟩ => absurd h hjoined⟩
  case order =>
    intro k j hc
    rcases hchild.mp hc with hc | ⟨rfl, hj⟩
    · rw [nodeIn_append_of_lt _ (lt_length_of_childIn hc)]
      exact hf.order k j hc
    · refine ⟨by rcases hj with rfl | rfl <;> assumption, ?_⟩
      rw [nodeIn_append_length]
      intro h
      have := congrArg BitVec.toNat h
      simp only [Node.join, BitVec.toNat_ofNat] at this
      omega

/-- The merge loop (R150) with enough fuel ends in a forest of at most one root.  Each merge writes one node and makes the
queue one shorter. -/
theorem mergeLoop_forest (fuel : Nat) (nodes : List Node) (pq : List Nat) (hf : Forest nodes pq)
    (hlen : nodes.length + pq.length ≤ 512) (hfuel : pq.length ≤ fuel + 1) :
    ∃ pq', Forest (mergeLoop fuel nodes pq) pq' ∧ pq'.length ≤ 1 ∧
      (mergeLoop fuel nodes pq).length + pq'.length = nodes.length + pq.length := by
  induction fuel generalizing nodes pq with
  | zero => exact ⟨pq, hf, hfuel, rfl⟩
  | succ fuel ih =>
    unfold mergeLoop
    split
    · next hnone => exact ⟨pq, hf, by simp [extractMin_eq_none_iff.mp hnone], rfl⟩
    · next a pq₁ hsome =>
      obtain ⟨ha, rfl⟩ := extractMin_eq_some hsome
      have hpq := List.length_erase_add_one ha
      split
      · next hnone =>
        rw [extractMin_eq_none_iff.mp hnone] at hpq
        exact ⟨pq, hf, by simpa using hpq.ge, rfl⟩
      · next b pq₂ hsome₂ =>
        obtain ⟨hb, rfl⟩ := extractMin_eq_some hsome₂
        have hpq₁ := List.length_erase_add_one hb
        obtain ⟨pq', hf', hone, hcount⟩ := ih _ _ (hf.merge (by omega) ha hb)
          (by simp only [List.length_append, List.length_cons, List.length_nil]; omega)
          (by simp only [List.length_cons]; omega)
        refine ⟨pq', hf', hone, hcount.trans ?_⟩
        simp only [List.length_append, List.length_cons, List.length_nil]
        omega

/-! ### The tree of FREQ -/

theorem length_leavesOf_le (freq : Arr Word 256) : (leavesOf freq).length ≤ 256 := by
  rw [leavesOf, List.length_map]
  refine (List.length_filter_le ..).trans ?_
  simp [freq.length_toList]

theorem leavesOf_kind (freq : Arr Word 256) : ∀ n ∈ leavesOf freq, n.kind = .leaf := by
  intro n hn
  obtain ⟨p, -, rfl⟩ := List.mem_map.mp hn
  rfl

/-- R154: n leaves and n − 1 joins, the last of them the only root. -/
theorem buildNodes_forest (freq : Arr Word 256) :
    ∃ pq, Forest (buildNodes freq) pq ∧ pq.length ≤ 1 ∧
      (buildNodes freq).length + pq.length = 2 * (leavesOf freq).length := by
  have hn := length_leavesOf_le freq
  obtain ⟨pq, hf, hone, hcount⟩ := mergeLoop_forest (leavesOf freq).length _ _ (forest_leaves (leavesOf_kind freq))
    (by rw [List.length_range]; omega) (by rw [List.length_range]; omega)
  exact ⟨pq, hf, hone, by rwa [List.length_range, ← two_mul] at hcount⟩

theorem length_buildNodes_le (freq : Arr Word 256) : (buildNodes freq).length ≤ nodeMax := by
  obtain ⟨pq, hf, -, hcount⟩ := buildNodes_forest freq
  have hn := length_leavesOf_le freq
  by_cases hne : buildNodes freq = []
  · simp [hne]
  · have := List.length_pos_of_mem (hf.last hne)
    unfold nodeMax
    omega

theorem buildTree_nodeCount (freq : Arr Word 256) : (buildTree freq).nodeCount.toNat = (buildNodes freq).length := by
  have := length_buildNodes_le freq
  unfold nodeMax at this
  exact Nat.mod_eq_of_lt (by omega)

theorem buildTree_root (freq : Arr Word 256) : (buildTree freq).root.toNat = (buildNodes freq).length - 1 := by
  have := length_buildNodes_le freq
  unfold nodeMax at this
  exact Nat.mod_eq_of_lt (by omega)

theorem buildTree_rootValid_iff (freq : Arr Word 256) : (buildTree freq).rootValid = true ↔ buildNodes freq ≠ [] := by
  simp [buildTree]

/-- R42, R150: the arena holds the nodes written and the all-zero entry past them. -/
theorem buildTree_at (freq : Arr Word 256) (k : Nat) : (buildTree freq).at k = nodeIn (buildNodes freq) k := by
  have hlen := length_buildNodes_le freq
  simp only [TreeBuilder.at, buildTree, arenaOf, nodeIn, List.getElem?_take, List.getElem?_append,
    List.getElem?_replicate]
  by_cases hk : k < (buildNodes freq).length
  · simp [hk, Nat.lt_of_lt_of_le hk hlen]
  · rw [List.getElem?_eq_none (Nat.le_of_not_lt hk)]
    split_ifs <;> rfl

theorem buildTree_isChild_iff (freq : Arr Word 256) (k j : Nat) :
    (buildTree freq).IsChild k j ↔ ChildIn (buildNodes freq) k j := by
  rw [TreeBuilder.IsChild, ChildIn, buildTree_at]

/-- What TB_BUILD answers when no error is recorded (R150). -/
theorem exec_tbBuild {s : State} (h : s.errcause = .noError) :
    exec .tbBuild s = .next { s with tree := buildTree s.fc.freq } :=
  (gated_of_noError h _ : execTbBuild s = _)

/-- Settles O33: the nodes are a forest whose only root is the last node. -/
theorem everyNodeHasOneParent : Obligations.EveryNodeHasOneParent := by
  intro s t hs h
  obtain rfl : { s with tree := buildTree s.fc.freq } = t := by
    rw [exec_tbBuild hs] at h
    injection h
  obtain ⟨pq, hf, hone, -⟩ := buildNodes_forest s.fc.freq
  simp only [buildTree_isChild_iff, buildTree_root, buildTree_at]
  refine ⟨fun j hj => ?_, fun k => ?_, hf.order⟩
  · have hne : buildNodes s.fc.freq ≠ [] := fun h => by simp [h] at hj
    obtain ⟨r, rfl⟩ := List.length_eq_one_iff.mp (Nat.le_antisymm hone (List.length_pos_of_mem (hf.last hne)))
    have hlast := List.mem_singleton.mp (hf.last hne)
    exact hf.parent j (by omega) fun hjr => by
      have := List.mem_singleton.mp hjr
      omega
  · by_cases hne : buildNodes s.fc.freq = []
    · exact .inr (by simp [buildTree, hne])
    · exact .inl (hf.orphan _ (hf.last hne) k)

end Sys2Proof.Proofs
end

section
/-! The invariant of the machine, clause by clause: each unit's commands keep the clause that speaks of the unit, and every
other command leaves the unit as it was. -/

namespace Sys2Proof.Proofs

open Sys2Proof Sys2Proof.Machine Sys2Proof.Laws

variable {s t : State} {i : Instr}

/-! ### The clauses, and what holds after reset -/

/-- The invariant but for BUSY, which the command cycle sets while a command runs (R97). -/
structure UnitsOk (s : State) : Prop where
  counts : s.CountsAgree
  fifos : s.FifosFit
  arena : s.ArenaShape
  tree : s.TreeCurrent
  table : s.TableChecked
  session : s.SessionHasTable
  packer : s.PackerClean
  unpacker : s.UnpackerClean

theorem inv_iff : s.Inv ↔ s.busy = false ∧ UnitsOk s :=
  ⟨fun ⟨h0, h1, h2, h3, h4, h5, h6, h7, h8⟩ => ⟨h0, h1, h2, h3, h4, h5, h6, h7, h8⟩,
    fun ⟨h0, h1, h2, h3, h4, h5, h6, h7, h8⟩ => ⟨h0, h1, h2, h3, h4, h5, h6, h7, h8⟩⟩

/-- R52, R281: every clause holds of the reset values. -/
theorem unitsOk_resetState (s : State) : UnitsOk s.resetState where
  counts := sumOf_replicate_zero.symm
  fifos := ⟨Nat.zero_le _, Nat.zero_le _⟩
  arena := by
    rw [State.ArenaShape, resetState_tree]
    exact ⟨Nat.zero_le _, fun n hn => List.eq_of_mem_replicate (List.mem_of_mem_drop hn), by decide, rfl⟩
  tree h := by cases h
  table h := by cases h
  session h := by cases h
  packer := ⟨Nat.one_pos, fun _ => ⟨rfl, rfl⟩⟩
  unpacker := by simp [State.UnpackerClean]

/-- A bit written at position n of a vector that is 0 from there on leaves it 0 from n + 1 on. -/
theorem toNat_setBit_lt {w : Nat} {v : BitVec w} {n : Nat} (h : v.toNat < 2 ^ n) (b : Bool) :
    (setBit v n b).toNat < 2 ^ (n + 1) := by
  refine Nat.lt_pow_two_of_testBit _ fun j hj => ?_
  have hne : ¬ (j = n ∧ j < w) := fun hjn => by omega
  rw [BitVec.testBit_toNat, getLsbD_setBit, if_neg hne, ← BitVec.testBit_toNat]
  exact Nat.testBit_lt_two_pow (h.trans_le (Nat.pow_le_pow_right Nat.two_pos (by omega)))

/-! ### The packer (R47) -/

/-- AppendBit adds one bit to those the packer holds (R203). -/
theorem appendBit_count (p : Packer) (b : Bool) :
    8 * (p.appendBit b).pkq.length + (p.appendBit b).accLen.toNat = 8 * p.pkq.length + p.accLen.toNat + 1 := by
  by_cases h : p.accLen.toNat = 7
  · rw [appendBit_full b h]
    show 8 * (p.pkq ++ [_]).length + 0 = _
    rw [List.length_append, List.length_singleton]
    omega
  · rw [appendBit_partial b h]
    have hlt := p.accLen.isLt
    simp only [BitVec.toNat_ofNat]
    omega

theorem appendBits_count (p : Packer) (bs : List Bool) :
    8 * (p.appendBits bs).pkq.length + (p.appendBits bs).accLen.toNat =
      8 * p.pkq.length + p.accLen.toNat + bs.length := by
  induction bs generalizing p with
  | nil => rfl
  | cons b bs ih =>
    rw [appendBits_cons, ih, appendBit_count, List.length_cons]
    omega

theorem appendBit_acc_lt {p : Packer} (h : p.acc.toNat < 2 ^ p.accLen.toNat) (b : Bool) :
    (p.appendBit b).acc.toNat < 2 ^ (p.appendBit b).accLen.toNat := by
  by_cases hfull : p.accLen.toNat = 7
  · rw [appendBit_full b hfull]
    exact Nat.one_pos
  · rw [appendBit_partial b hfull]
    have hlt := p.accLen.isLt
    have hmod : (p.accLen.toNat + 1) % 2 ^ 3 = p.accLen.toNat + 1 := Nat.mod_eq_of_lt (by omega)
    simpa only [BitVec.toNat_ofNat, hmod] using toNat_setBit_lt h b

theorem appendBits_acc_lt {p : Packer} (h : p.acc.toNat < 2 ^ p.accLen.toNat) (bs : List Bool) :
    (p.appendBits bs).acc.toNat < 2 ^ (p.appendBits bs).accLen.toNat := by
  induction bs generalizing p with
  | nil => exact h
  | cons b bs ih => exact ih (appendBit_acc_lt h b)

theorem effect_keeps_packerClean (h : Effect s i t) (hs : s.PackerClean) : t.PackerClean := by
  cases h with
  | softReset => exact (unitsOk_resetState s).packer
  | enStart | enMissing | enFlush => simp [State.PackerClean]
  | enSym x hactive => exact ⟨appendBits_acc_lt hs.1 _, fun hidle => by simp [hactive] at hidle⟩
  | _ => simpa [State.PackerClean] using hs

/-- R201, R202: EN_SYM and EN_FLUSH check PKQ's room before they push. -/
theorem effect_keeps_pkqFits (h : Effect s i t) (hs : s.packer.pkq.length ≤ s.config.pkDepth.val) :
    t.packer.pkq.length ≤ t.config.pkDepth.val := by
  cases h with
  | softReset => exact (unitsOk_resetState s).fifos.1
  | enStart | enMissing => simp
  | enSym x hactive hroom =>
    have hcount := appendBits_count s.packer (s.entryOf x).code
    rw [length_code] at hcount
    dsimp only
    omega
  | enFlush hroom =>
    dsimp only
    split
    · next hpending =>
      have hne : s.packer.pkq.length ≠ s.config.pkDepth.val := fun hfull => hroom ⟨hpending, hfull⟩
      rw [List.length_append, List.length_singleton]
      omega
    · exact hs
  | _ => simpa using hs

/-! ### The unpacker (R48) -/

/-- A decode session in progress, as R48 has it. -/
structure Accumulates (u : Unpacker) : Prop where
  dstate : u.dstate = .accumulating
  cand : u.cand.toNat < 2 ^ u.candLen.toNat
  count : u.decCount.toNat < u.decTarget.toNat
  len : u.candLen.toNat ≤ 254

/-- A decode session that has given all its symbols, as R48 has it. -/
structure Finished (u : Unpacker) : Prop where
  dstate : u.dstate = .done
  cand : u.cand.toNat < 2 ^ u.candLen.toNat
  count : u.decCount = u.decTarget

/-- What the bits of a session in progress may lead to (R223). -/
def CleanStep : BitStep → Prop
  | .ok u => Accumulates u ∨ Finished u
  | .overflow u => u.cand.toNat < 2 ^ u.candLen.toNat

theorem decodeBit_clean (t : CodeTable) {u : Unpacker} (h : Accumulates u) (b : Bool) : CleanStep (u.decodeBit t b) := by
  rcases decodeBit_cases t u b with ⟨x, -, hok⟩ | ⟨-, hmiss⟩
  · rw [hok]
    by_cases hlast : u.decCount + 1 = u.decTarget
    · exact .inr ⟨if_pos hlast, Nat.one_pos, hlast⟩
    · refine .inl ⟨(if_neg hlast).trans h.dstate, Nat.one_pos, ?_, Nat.zero_le _⟩
      have hcount := h.count
      have hone : (u.decCount + 1).toNat = u.decCount.toNat + 1 := by
        have := u.decTarget.isLt
        exact Nat.mod_eq_of_lt (show u.decCount.toNat + 1 < 2 ^ 32 by omega)
      have hne : (u.decCount + 1).toNat ≠ u.decTarget.toNat := fun e => hlast (BitVec.eq_of_toNat_eq e)
      show (u.decCount + 1).toNat < u.decTarget.toNat
      omega
  · rw [hmiss]
    have hlen := h.len
    have hmod : (BitVec.ofNat 8 (u.candLen.toNat + 1)).toNat = u.candLen.toNat + 1 :=
      Nat.mod_eq_of_lt (show u.candLen.toNat + 1 < 2 ^ 8 by omega)
    have hcand : (setBit u.cand u.candLen.toNat b).toNat < 2 ^ (BitVec.ofNat 8 (u.candLen.toNat + 1)).toNat := by
      rw [hmod]
      exact toNat_setBit_lt h.cand b
    split
    · exact hcand
    · next hroom =>
      refine .inl ⟨h.dstate, hcand, h.count, ?_⟩
      show (BitVec.ofNat 8 (u.candLen.toNat + 1)).toNat ≤ 254
      rw [hmod]
      unfold maxCodeLen at hroom
      omega

/-- Everything the loop of DE_BYTE can do with its next bit (R221): overflow, go on, or leave with the session over. -/
theorem decodeBits_cons_cases (t : CodeTable) (u : Unpacker) (b : Bool) (bs : List Bool) :
    (∃ v, u.decodeBit t b = .overflow v ∧ u.decodeBits t (b :: bs) = .overflow v) ∨
    (∃ v, u.decodeBit t b = .ok v ∧ v.dstate = .accumulating ∧ u.decodeBits t (b :: bs) = v.decodeBits t bs) ∨
    (∃ v, u.decodeBit t b = .ok v ∧ v.dstate ≠ .accumulating ∧ u.decodeBits t (b :: bs) = .ok v) := by
  rw [Unpacker.decodeBits]
  cases u.decodeBit t b with
  | overflow v => exact .inl ⟨v, rfl, rfl⟩
  | ok v =>
    by_cases hopen : v.dstate = .accumulating
    · exact .inr (.inl ⟨v, rfl, hopen, if_pos hopen⟩)
    · exact .inr (.inr ⟨v, rfl, hopen, if_neg hopen⟩)

theorem decodeBits_clean (t : CodeTable) {u : Unpacker} (h : Accumulates u) (bs : List Bool) :
    CleanStep (u.decodeBits t bs) := by
  induction bs generalizing u with
  | nil => exact .inl h
  | cons b bs ih =>
    have hbit := decodeBit_clean t h b
    rcases decodeBits_cons_cases t u b bs with ⟨v, hv, hloop⟩ | ⟨v, hv, hopen, hloop⟩ | ⟨v, hv, -, hloop⟩ <;>
      rw [hv] at hbit <;> rw [hloop]
    · exact hbit
    · rcases hbit with hacc | hdone
      · exact ih hacc
      · exact absurd (hopen.symm.trans hdone.dstate) (by decide)
    · exact hbit

/-- One bit queues at most one symbol (R223). -/
theorem decodeBit_dkq_le {t : CodeTable} {u u' : Unpacker} {b : Bool} (h : u.decodeBit t b = .ok u') :
    u'.dkq.length ≤ u.dkq.length + 1 := by
  rcases decodeBit_cases t u b with ⟨x, -, hok⟩ | ⟨-, hmiss⟩
  · obtain rfl := BitStep.ok.inj (hok.symm.trans h)
    simp
  · rw [hmiss] at h
    split at h
    · cases h
    · obtain rfl := BitStep.ok.inj h
      exact Nat.le_succ _

theorem decodeBits_dkq_le {t : CodeTable} {u u' : Unpacker} {bs : List Bool} (h : u.decodeBits t bs = .ok u') :
    u'.dkq.length ≤ u.dkq.length + bs.length := by
  induction bs generalizing u with
  | nil =>
    obtain rfl := BitStep.ok.inj h
    exact Nat.le_refl _
  | cons b bs ih =>
    rw [List.length_cons]
    rcases decodeBits_cons_cases t u b bs with ⟨v, -, hloop⟩ | ⟨v, hv, -, hloop⟩ | ⟨v, hv, -, hloop⟩ <;>
      rw [hloop] at h
    · cases h
    · have hbit := decodeBit_dkq_le hv
      have hrest := ih h
      omega
    · have hbit := decodeBit_dkq_le (hv.trans h)
      omega

/-- R221: DE_BYTE checks for the room its eight bits can take. -/
theorem effect_keeps_dkqFits (h : Effect s i t) (hs : s.unpacker.dkq.length ≤ s.config.dkDepth.val) :
    t.unpacker.dkq.length ≤ t.config.dkDepth.val := by
  cases h with
  | softReset => exact (unitsOk_resetState s).fifos.2
  | deStart | deOverflow | deEnd => simp
  | deByte byte u hopen hroom hu =>
    have := decodeBits_dkq_le hu
    rw [length_byteBits] at this
    dsimp only
    omega
  | _ => simpa using hs

theorem accumulates_of_unpackerClean (hs : s.UnpackerClean) (hopen : s.unpacker.dstate = .accumulating) :
    Accumulates s.unpacker :=
  have hacc := hs.2.1 hopen
  ⟨hopen, hs.1, hacc.1, hacc.2⟩

theorem Accumulates.clean (h : Accumulates s.unpacker) : s.UnpackerClean := by
  simp [State.UnpackerClean, h.dstate, h.cand, h.count, h.len]

theorem Finished.clean (h : Finished s.unpacker) : s.UnpackerClean := by
  simp [State.UnpackerClean, h.dstate, h.cand, h.count]

/-- A session that failed with its queue discarded (R222, R223). -/
theorem unpackerClean_of_failed (hstate : s.unpacker.dstate = .failed) (hdkq : s.unpacker.dkq = [])
    (hcand : s.unpacker.cand.toNat < 2 ^ s.unpacker.candLen.toNat) : s.UnpackerClean := by
  simp [State.UnpackerClean, hstate, hdkq, hcand]

/-- R220: a session of no symbols is over at once. -/
theorem unpackerClean_deStart (n : Word) (h : t.unpacker =
    { dstate := if n = 0 then .done else .accumulating, cand := 0, candLen := 0, decCount := 0, decTarget := n,
      dkq := [] }) : t.UnpackerClean := by
  by_cases hn : n = 0
  · exact Finished.clean ⟨by simp [h, hn], by simp [h], by simp [h, hn]⟩
  · have hpos : 0 < n.toNat := Nat.pos_of_ne_zero fun h0 => hn (BitVec.eq_of_toNat_eq h0)
    exact Accumulates.clean ⟨by simpa [h] using hn, by simp [h], by simpa [h] using hpos, by simp [h]⟩

theorem effect_keeps_unpackerClean (h : Effect s i t) (hs : s.UnpackerClean) : t.UnpackerClean := by
  cases h with
  | softReset => exact (unitsOk_resetState s).unpacker
  | deStart => exact unpackerClean_deStart s.arg rfl
  | deByte byte u hopen hroom hu =>
    have hclean := decodeBits_clean s.table (accumulates_of_unpackerClean hs hopen) (byteBits byte)
    rw [hu] at hclean
    exact hclean.elim (fun h => Accumulates.clean h) fun h => Finished.clean h
  | deOverflow byte u hopen hu =>
    have hclean := decodeBits_clean s.table (accumulates_of_unpackerClean hs hopen) (byteBits byte)
    rw [hu] at hclean
    exact unpackerClean_of_failed (by simp) (by simp) (by simpa [CleanStep] using hclean)
  | deEnd => exact unpackerClean_of_failed (by simp) (by simp) (by simpa using hs.1)
  | _ => simpa [State.UnpackerClean] using hs

/-! ### The table (R45, R181) -/

theorem effect_keeps_tableChecked (h : Effect s i t) (hs : s.TableChecked) : t.TableChecked := by
  cases h with
  | softReset => exact (unitsOk_resetState s).table
  | caAssign | ctValidate | ctClear | entrySet => simp [State.TableChecked]
  | _ => simpa [State.TableChecked] using hs

theorem effect_keeps_sessionHasTable (h : Effect s i t) (hs : s.SessionHasTable) : t.SessionHasTable := by
  have hkeep : t.tableValid = s.tableValid → (t.sessionActive = true → s.sessionActive = true) → t.SessionHasTable :=
    fun hv ha h => hv.trans (hs (ha h))
  have hidle : s.sessionActive = false → t.sessionActive = s.sessionActive → t.SessionHasTable :=
    fun hi he h => absurd (he.symm.trans h) (by simp [hi])
  cases h with
  | softReset => exact (unitsOk_resetState s).session
  | caAssign hi | ctClear hi | entrySet x e _ hi | ctValidate hi => exact hidle hi (by simp [State.sessionActive])
  | enStart hvalid | deStart hvalid => exact fun _ => hvalid
  | enSym x hactive => exact hkeep rfl fun _ => by simp [State.sessionActive, hactive]
  | deByte byte u hopen => exact hkeep rfl fun _ => by simp [State.sessionActive, hopen]
  | enMissing | enFlush =>
    exact hkeep (by simp) fun h => (sessionActive_iff s).mpr (.inr (by simpa [sessionActive_iff] using h))
  | deOverflow | deEnd =>
    exact hkeep (by simp) fun h => (sessionActive_iff s).mpr (.inl (by simpa [sessionActive_iff] using h))
  | _ => exact hkeep (by simp) fun h => by simpa [State.sessionActive] using h

/-! ### The tree (R42, R43) -/

/-- R42, R154, R155: the tree of any FREQ fits the arena and leaves the rest of it all zero. -/
theorem arenaShape_buildTree {freq : Arr Word 256} (h : t.tree = buildTree freq) : t.ArenaShape := by
  have hlen := length_buildNodes_le freq
  rw [State.ArenaShape, h, buildTree_nodeCount, buildTree_root, buildTree_rootValid_iff]
  refine ⟨hlen, fun n hn => ?_, ?_, rfl⟩
  · change n ∈ ((buildNodes freq ++ List.replicate nodeMax Node.zero).take nodeMax).drop (buildNodes freq).length at hn
    rw [List.drop_take, List.drop_left] at hn
    exact List.eq_of_mem_replicate (List.mem_of_mem_take hn)
  · rw [← List.length_pos_iff, ← buildTree_nodeCount, Nat.pos_iff_ne_zero, ne_eq, ne_eq, ← BitVec.toNat_inj]
    rfl

theorem effect_keeps_arenaShape (h : Effect s i t) (hs : s.ArenaShape) : t.ArenaShape := by
  cases h with
  | softReset => exact (unitsOk_resetState s).arena
  | tbBuild => exact arenaShape_buildTree rfl
  | _ => simpa [State.ArenaShape] using hs

theorem effect_keeps_treeCurrent (h : Effect s i t) (hs : s.TreeCurrent) : t.TreeCurrent := by
  cases h with
  | softReset => exact (unitsOk_resetState s).tree
  | fcClear | fcCount | fcSet => exact fun h => by cases h
  | tbBuild => exact fun _ => rfl
  | _ => simpa [State.TreeCurrent] using hs

/-! ### The whole invariant -/

theorem UnitsOk.of_sameUnits (hu : SameUnits s t) (hs : UnitsOk s) : UnitsOk t := by
  obtain ⟨hconfig, hfc, htree, htable, htableValid, hpacker, hunpacker⟩ := hu
  constructor
  case counts => simpa [State.CountsAgree, hfc] using hs.counts
  case fifos => simpa [State.FifosFit, hconfig, hpacker, hunpacker] using hs.fifos
  case arena => simpa [State.ArenaShape, htree] using hs.arena
  case tree => simpa [State.TreeCurrent, htree, hfc] using hs.tree
  case table => simpa [State.TableChecked, htable, htableValid] using hs.table
  case session => simpa [State.SessionHasTable, State.sessionActive, htableValid, hpacker, hunpacker] using hs.session
  case packer => simpa [State.PackerClean, hpacker] using hs.packer
  case unpacker => simpa [State.UnpackerClean, hunpacker] using hs.unpacker

theorem UnitsOk.effect (h : Effect s i t) (hs : UnitsOk s) : UnitsOk t where
  counts := effect_keeps_countsAgree h hs.counts
  fifos := ⟨effect_keeps_pkqFits h hs.fifos.1, effect_keeps_dkqFits h hs.fifos.2⟩
  arena := effect_keeps_arenaShape h hs.arena
  tree := effect_keeps_treeCurrent h hs.tree
  table := effect_keeps_tableChecked h hs.table
  session := effect_keeps_sessionHasTable h hs.session
  packer := effect_keeps_packerClean h hs.packer
  unpacker := effect_keeps_unpackerClean h hs.unpacker

/-- A pop of PKQ keeps all but the queue's length (R30). -/
theorem UnitsOk.popPk (hs : UnitsOk s) : UnitsOk { s with packer := { s.packer with pkq := s.packer.pkq.tail } } :=
  { hs with fifos := ⟨(List.tail_sublist _).length_le.trans hs.fifos.1, hs.fifos.2⟩ }

/-- A pop of DKQ keeps all but the queue's length; an empty queue stays empty (R31). -/
theorem UnitsOk.popDk (hs : UnitsOk s) :
    UnitsOk { s with unpacker := { s.unpacker with dkq := s.unpacker.dkq.tail } } := by
  obtain ⟨hcand, hacc, hdone, hfailed, hidle⟩ := hs.unpacker
  refine { hs with fifos := ⟨hs.fifos.1, (List.tail_sublist _).length_le.trans hs.fifos.2⟩, unpacker := ?_ }
  refine ⟨hcand, hacc, hdone, fun h => ?_, fun h => ?_⟩
  · simp [hfailed h]
  · obtain ⟨hcount, htarget, hlen, hdkq⟩ := hidle h
    simp [hcount, htarget, hlen, hdkq]

/-- Settles O60: every outcome of a step keeps every clause of the invariant. -/
theorem stepKeepsInvariant : Obligations.StepKeepsInvariant := by
  intro s t hs h
  obtain ⟨hbusy, hs⟩ := inv_iff.mp hs
  exact inv_iff.mpr ⟨step_busy hbusy h,
    step_keeps UnitsOk.of_sameUnits UnitsOk.effect UnitsOk.popPk UnitsOk.popDk hs h⟩

/-- Settles O59: a state fresh from `State.resetWith` is its own reset. -/
theorem resetMeetsInvariant : Obligations.ResetMeetsInvariant := fun c =>
  inv_iff.mpr ⟨rfl, unitsOk_resetState (State.resetWith c)⟩

end Sys2Proof.Proofs
end

section
/-! The read-only registers (R27 to R37): STATUS, ERRCAUSE, ENC_INFO, DEC_INFO and TREE_INFO are concatenations of fields, read
field by field. -/

namespace Sys2Proof.Proofs

open Sys2Proof Sys2Proof.Machine Sys2Proof.Laws

/-! ### Fields of a word -/

/-- A field of one bit that holds a flag is the bit. -/
theorem getLsbD_of_extract_flag {n k : Nat} {w : BitVec n} {b : Bool} (h : w.extractLsb' k 1 = flag b) :
    w.getLsbD k = b := by
  have hbit := congrArg (·.getLsbD 0) h
  simpa [flag] using hbit

/-- Every bit of a field that is 0 is 0. -/
theorem getLsbD_of_extract_zero {n start len k : Nat} {w : BitVec n} (h : w.extractLsb' start len = 0)
    (hlo : start ≤ k) (hhi : k < start + len) : w.getLsbD k = false := by
  have hbit := congrArg (·.getLsbD (k - start)) h
  have hin : k - start < len := by omega
  simpa [hin, Nat.add_sub_cancel' hlo] using hbit

/-- Above a top field that is 0, and in it, every bit reads 0. -/
theorem getLsbD_of_extract_zero_top {start len k : Nat} {w : BitVec (start + len)} (h : w.extractLsb' start len = 0)
    (hlo : start ≤ k) : w.getLsbD k = false := by
  by_cases hhi : k < start + len
  · exact getLsbD_of_extract_zero h hlo hhi
  · exact BitVec.getLsbD_of_ge w k (Nat.le_of_not_lt hhi)

/-! ### The registers, field by field

A field is reached by dropping the fields below it, then those above it. -/

theorem status_fields (s : State) :
    s.status.extractLsb' 0 1 = flag s.busy ∧ s.status.extractLsb' 1 1 = flag s.errFlag ∧
    s.status.extractLsb' 2 1 = flag s.tree.treeValid ∧ s.status.extractLsb' 3 1 = flag s.tableValid ∧
    s.status.extractLsb' 4 1 = flag s.packer.active ∧ s.status.extractLsb' 5 2 = s.unpacker.dstate.code ∧
    s.status.extractLsb' 7 9 = 0 ∧ s.status.extractLsb' 16 7 = BitVec.ofNat 7 s.packer.pkq.length ∧
    s.status.extractLsb' 23 1 = 0 ∧ s.status.extractLsb' 24 5 = BitVec.ofNat 5 s.unpacker.dkq.length ∧
    s.status.extractLsb' 29 3 = 0 := by
  have hword : ∀ start len, s.status.extractLsb' start len =
      (0#3 ++ BitVec.ofNat 5 s.unpacker.dkq.length ++ 0#1 ++ BitVec.ofNat 7 s.packer.pkq.length ++ 0#9 ++
        s.unpacker.dstate.code ++ flag s.packer.active ++ flag s.tableValid ++ flag s.tree.treeValid ++
        flag s.errFlag ++ flag s.busy).extractLsb' start len := fun _ _ => rfl
  refine ⟨?_, ?_, ?_, ?_, ?_, ?_, ?_, ?_, ?_, ?_, ?_⟩ <;>
  · simp (disch := decide) only [hword, BitVec.extractLsb'_append_eq_of_le, BitVec.extractLsb'_append_eq_of_add_le]
    exact BitVec.extractLsb'_eq_self

theorem errcauseWord_fields (s : State) :
    s.errcauseWord.extractLsb' 0 8 = s.errcause.code ∧ s.errcauseWord.extractLsb' 8 24 = 0 :=
  ⟨BitVec.extractLsb'_append_eq_right, BitVec.extractLsb'_append_eq_left⟩

theorem encInfo_fields (s : State) :
    s.encInfo.extractLsb' 0 8 = s.packer.acc ∧ s.encInfo.extractLsb' 8 3 = s.packer.accLen ∧
    s.encInfo.extractLsb' 11 21 = 0 := by
  have hword : ∀ start len, s.encInfo.extractLsb' start len =
      (0#21 ++ s.packer.accLen ++ s.packer.acc).extractLsb' start len := fun _ _ => rfl
  refine ⟨?_, ?_, ?_⟩ <;>
  · simp (disch := decide) only [hword, BitVec.extractLsb'_append_eq_of_le, BitVec.extractLsb'_append_eq_of_add_le]
    exact BitVec.extractLsb'_eq_self

theorem decInfo_fields (s : State) :
    s.decInfo.extractLsb' 0 8 = s.unpacker.candLen ∧ s.decInfo.extractLsb' 8 24 = 0 :=
  ⟨BitVec.extractLsb'_append_eq_right, BitVec.extractLsb'_append_eq_left⟩

theorem treeInfo_fields (s : State) :
    s.treeInfo.extractLsb' 0 10 = s.tree.nodeCount ∧ s.treeInfo.extractLsb' 10 6 = 0 ∧
    s.treeInfo.extractLsb' 16 9 = s.tree.root ∧ s.treeInfo.extractLsb' 25 6 = 0 ∧
    s.treeInfo.extractLsb' 31 1 = flag s.tree.rootValid := by
  have hword : ∀ start len, s.treeInfo.extractLsb' start len =
      (flag s.tree.rootValid ++ 0#6 ++ s.tree.root ++ 0#6 ++ s.tree.nodeCount).extractLsb' start len := fun _ _ => rfl
  refine ⟨?_, ?_, ?_, ?_, ?_⟩ <;>
  · simp (disch := decide) only [hword, BitVec.extractLsb'_append_eq_of_le, BitVec.extractLsb'_append_eq_of_add_le]
    exact BitVec.extractLsb'_eq_self

theorem errFlag_iff (s : State) : s.errFlag = true ↔ s.errcause ≠ .noError := by
  simp [State.errFlag]

/-- Settles O15: each field of STATUS is read off its place; a FIFO that fits has a length that its field can hold. -/
theorem statusShowsState : Obligations.StatusShowsState := by
  intro s hfit
  obtain ⟨hbusy, herr, htree, htable, hactive, hdstate, hzero7, hpk, hzero23, hdk, hzero29⟩ := status_fields s
  have hpkLen : s.packer.pkq.length < 2 ^ 7 := by
    have := s.config.pkDepth.property
    have := hfit.1
    omega
  have hdkLen : s.unpacker.dkq.length < 2 ^ 5 := by
    have := s.config.dkDepth.property
    have := hfit.2
    omega
  refine ⟨getLsbD_of_extract_flag hbusy, ?_, getLsbD_of_extract_flag htree, getLsbD_of_extract_flag htable,
    getLsbD_of_extract_flag hactive, ?_, fun k hlo hhi => getLsbD_of_extract_zero hzero7 hlo (Nat.lt_succ_of_le hhi), ?_,
    getLsbD_of_extract_zero hzero23 (Nat.le_refl _) (Nat.lt_succ_self _), ?_,
    fun k hlo => getLsbD_of_extract_zero_top (start := 29) (len := 3) hzero29 hlo⟩
  · rw [← errFlag_iff, ← getLsbD_of_extract_flag herr]
    rfl
  · refine (congrArg BitVec.toNat hdstate).trans ?_
    cases s.unpacker.dstate <;> rfl
  · exact (congrArg BitVec.toNat hpk).trans (BitVec.toNat_ofNat _ _ ▸ Nat.mod_eq_of_lt hpkLen)
  · exact (congrArg BitVec.toNat hdk).trans (BitVec.toNat_ofNat _ _ ▸ Nat.mod_eq_of_lt hdkLen)

/-- Settles O16: the element registers are the elements, and the fields of the coded ones are read off their places. -/
theorem infoRegistersShowState : Obligations.InfoRegistersShowState := by
  intro s
  obtain ⟨hcode, hcode0⟩ := errcauseWord_fields s
  obtain ⟨hacc, haccLen, henc0⟩ := encInfo_fields s
  obtain ⟨hcandLen, hdec0⟩ := decInfo_fields s
  obtain ⟨hcount, htree10, hroot, htree25, hvalid⟩ := treeInfo_fields s
  refine ⟨⟨hcode.trans ?_, fun k hlo => getLsbD_of_extract_zero_top (start := 8) (len := 24) hcode0 hlo⟩, rfl, rfl, rfl,
    rfl, ⟨hacc, haccLen, fun k hlo => getLsbD_of_extract_zero_top (start := 11) (len := 21) henc0 hlo⟩,
    ⟨hcandLen, fun k hlo => getLsbD_of_extract_zero_top (start := 8) (len := 24) hdec0 hlo⟩,
    hcount, hroot, getLsbD_of_extract_flag hvalid,
    fun k hlo hhi => getLsbD_of_extract_zero htree10 hlo (Nat.lt_succ_of_le hhi),
    fun k hlo hhi => getLsbD_of_extract_zero htree25 hlo (Nat.lt_succ_of_le hhi)⟩
  cases s.errcause <;> rfl

end Sys2Proof.Proofs
end

section
/-! The port: what one step does with the first pending action, and what the registers do under full and aligned accesses
(R25 to R31, R38, R61, R67, R71, R97). -/

namespace Sys2Proof.Proofs

open Sys2Proof Sys2Proof.Machine Sys2Proof.Laws

variable {s : State} {rest : List HostAction}

/-! ### One step -/

/-- R70: with BUSY = 0 the first pending action is performed. -/
theorem step_of_pending {a : HostAction} (hbusy : s.busy = false) (hp : s.pending = a :: rest) :
    step s = perform a { s with pending := rest } := by
  simp [step, hostStep, hp, hbusy]

/-- R71: an action that BUSY = 1 does not hold is performed too. -/
theorem step_of_not_held {a : HostAction} (hp : s.pending = a :: rest) (ha : heldByBusy a = false) :
    step s = perform a { s with pending := rest } := by
  simp [step, hostStep, hp, ha]

/-- R71: an action that BUSY = 1 holds stays pending. -/
theorem step_of_held {a : HostAction} (hbusy : s.busy = true) (hp : s.pending = a :: rest)
    (ha : heldByBusy a = true) : step s = .next { s with busy := false } := by
  simp [step, hostStep, hp, hbusy, ha]

/-- R71: every access but a read of STATUS or ID is held. -/
theorem heldByBusy_of_ne {a : HostAction} (hstatus : a ≠ .read 0x0C .word) (hid : a ≠ .read 0x00 .word)
    (hreset : a ≠ .reset) : heldByBusy a = true := by
  cases a with
  | write off size v => rfl
  | reset => exact absurd rfl hreset
  | read off size =>
    cases size with
    | byte | half => rfl
    | word =>
      have h0C : off ≠ statusOffset := fun h => hstatus (h ▸ rfl)
      have h00 : off ≠ 0x00#8 := fun h => hid (h ▸ rfl)
      simp [heldByBusy, h0C, h00]

/-! ### Full, aligned accesses -/

theorem perform_write_word {off : Offset} (v : Word) (s : State) (h : off.toNat % 4 = 0) :
    perform (.write off .word v) s = writeReg off v s := by
  simp [perform, accessWf, h]

theorem perform_read_word {off : Offset} (s : State) (h : off.toNat % 4 = 0) :
    perform (.read off .word) s = .next (respond (readReg off s).1 (readReg off s).2) := by
  simp [perform, accessWf, h]

/-- R38, R67: only CMD and ARG are written. -/
theorem writeReg_ignored {off : Offset} (v : Word) (s : State) (hcmd : off ≠ cmdOffset) (harg : off ≠ argOffset) :
    writeReg off v s = .next s := by
  unfold writeReg
  split
  · exact absurd (BitVec.eq_of_toNat_eq ‹_›) hcmd
  · exact absurd (BitVec.eq_of_toNat_eq ‹_›) harg
  · rfl

/-- R67: a reserved offset reads 0 and has no side effect. -/
theorem readReg_reserved {off : Offset} (s : State) (h : 0x38 ≤ off.toNat) : readReg off s = (0#32, s) := by
  unfold readReg
  split
  case h_15 => rfl
  all_goals omega

/-- R97: the cycle of a word that decodes runs its command between BUSY <- 1 and BUSY <- 0. -/
theorem issue_of_decode {w : Word} {i : Instr} (s : State) (h : decode w = .instr i) :
    issue w s = finishCommand (exec i { s with busy := true }) := by
  simp [issue, h]

/-- Settles O7: a write of CMD is the command cycle. -/
theorem stepRunsDecodedCommand : Obligations.StepRunsDecodedCommand := by
  intro s w i rest hbusy hp hw
  rw [step_of_pending hbusy hp, perform_write_word w _ rfl]
  exact issue_of_decode { s with pending := rest } hw

/-- Settles O11: the offset is neither CMD nor ARG, and from 0x38 on it reads 0. -/
theorem readOnlyWritesIgnored : Obligations.ReadOnlyWritesIgnored := by
  intro s off v rest hbusy halign hoff
  have hne : off ≠ cmdOffset ∧ off ≠ argOffset := by
    rcases hoff with hlisted | hreserved
    · revert off
      decide
    · constructor <;> rintro rfl <;> exact absurd hreserved (by decide)
  refine ⟨fun hp => ?_, fun hreserved hp => ?_⟩
  · rw [step_of_pending hbusy hp, perform_write_word v _ halign, writeReg_ignored v _ hne.1 hne.2]
  · rw [step_of_pending hbusy hp, perform_read_word _ halign, readReg_reserved _ hreserved]
    rfl

/-- Settles O12: a write of ARG stores the value whatever ERRCAUSE is, and the read behind it finds it there. -/
theorem argHoldsLastWrite : Obligations.ArgHoldsLastWrite := by
  intro s v rest hbusy hp
  refine ⟨{ s with arg := v, pending := .read 0x08 .word :: rest }, ?_, rfl, ?_⟩
  · rw [step_of_pending hbusy hp, perform_write_word v _ rfl]
    rfl
  · refine (step_of_pending (s := { s with arg := v, pending := .read 0x08 .word :: rest }) hbusy rfl).trans ?_
    rw [perform_read_word _ rfl]
    rfl

/-- The popped entry as R30 and R31 write it: VALID in bit 8 over the byte. -/
theorem validEntry_eq (b : Byte) : validEntry b = 0x100#32 ||| b.setWidth 32 := by
  revert b
  decide

/-- Settles O14: PK_OUT and DK_OUT read by a pop of their FIFO. -/
theorem outputReadsPopHead : Obligations.OutputReadsPopHead := by
  intro s b q
  rw [← validEntry_eq]
  exact ⟨popPk_cons, popPk_nil, popDk_cons, popDk_nil⟩

/-- Settles O17: STATUS and ID are read at once, every other access is held. -/
theorem busyHoldsAccesses : Obligations.BusyHoldsAccesses := by
  intro s a rest hbusy hp
  refine ⟨?_, ?_, fun hstatus hid hreset => step_of_held hbusy hp (heldByBusy_of_ne hstatus hid hreset)⟩
  · rintro rfl
    refine ⟨s.status, (getLsbD_of_extract_flag (status_fields s).1).trans hbusy, ?_⟩
    rw [step_of_not_held hp rfl, perform_read_word _ rfl]
    rfl
  · rintro rfl
    rw [step_of_not_held hp rfl, perform_read_word _ rfl]
    rfl

/-- Settles O19: the reset input and SOFT_RESET both are `State.resetState`. -/
theorem resetClearsEverything : Obligations.ResetClearsEverything := fun _ => ⟨rfl, rfl⟩

end Sys2Proof.Proofs
end

section
/-! The five queries (R29, R133, R156, R157, R178, R179): each answers the value of its rule in RESULT. -/

namespace Sys2Proof.Proofs

open Sys2Proof Sys2Proof.Machine Sys2Proof.Laws

/-- Below the arena's size an index reads the node there, as `TreeBuilder.at` does (R42). -/
theorem readNode_eq_at (t : TreeBuilder) (idx : NodeIndex) : readNode t.node idx = t.at idx.toNat := rfl

theorem weightWord_of_lt {t : TreeBuilder} {idx : NodeIndex} (h : idx.toNat < t.nodeCount.toNat) :
    t.weightWord idx = (t.at idx.toNat).weight := if_pos h

theorem weightWord_of_le {t : TreeBuilder} {idx : NodeIndex} (h : t.nodeCount.toNat ≤ idx.toNat) :
    t.weightWord idx = 0 := if_neg (Nat.not_lt.mpr h)

theorem nodeWord_of_le {t : TreeBuilder} {idx : NodeIndex} (h : t.nodeCount.toNat ≤ idx.toNat) :
    t.nodeWord idx = 0 := if_neg (Nat.not_lt.mpr h)

/-- An append as a number: the high part shifted over the low one. -/
theorem toNat_append_eq_add {n m : Nat} (x : BitVec n) (y : BitVec m) : (x ++ y).toNat = x.toNat * 2 ^ m + y.toNat := by
  rw [BitVec.toNat_append, ← Nat.shiftLeft_add_eq_or_of_lt y.isLt, Nat.shiftLeft_eq]

/-- R157: a leaf answers its symbol. -/
theorem toNat_nodeWord_of_leaf {t : TreeBuilder} {idx : NodeIndex} (h : idx.toNat < t.nodeCount.toNat)
    (hk : (t.at idx.toNat).kind = .leaf) : (t.nodeWord idx).toNat = (t.at idx.toNat).symbol.toNat := by
  have hword : t.nodeWord idx = 0#24 ++ (t.at idx.toNat).symbol := by
    simp [TreeBuilder.nodeWord, h, readNode_eq_at, hk]
  rw [hword]
  refine (toNat_append_eq_add _ _).trans ?_
  rw [BitVec.toNat_ofNat]
  omega

/-- R157: an internal node answers bit 31, LEFT in bits [24:16] and RIGHT in bits [8:0]. -/
theorem toNat_nodeWord_of_internal {t : TreeBuilder} {idx : NodeIndex} (h : idx.toNat < t.nodeCount.toNat)
    (hk : (t.at idx.toNat).kind = .internal) :
    (t.nodeWord idx).toNat = 2 ^ 31 + (t.at idx.toNat).left.toNat * 2 ^ 16 + (t.at idx.toNat).right.toNat := by
  have hword : t.nodeWord idx = 1#1 ++ 0#6 ++ (t.at idx.toNat).left ++ 0#7 ++ (t.at idx.toNat).right := by
    simp [TreeBuilder.nodeWord, h, readNode_eq_at, hk]
  rw [hword]
  refine (toNat_append_eq_add _ _).trans ?_
  rw [toNat_append_eq_add, toNat_append_eq_add, toNat_append_eq_add, BitVec.toNat_ofNat, BitVec.toNat_ofNat,
    BitVec.toNat_ofNat]
  omega

/-- Settles O30: each query answers its rule's value and writes RESULT alone. -/
theorem queriesAnswerInResult : Obligations.QueriesAnswerInResult := by
  intro s x idx k
  exact ⟨rfl, ⟨_, rfl, rfl, weightWord_of_lt, weightWord_of_le⟩,
    ⟨_, rfl, rfl, nodeWord_of_le, toNat_nodeWord_of_leaf, toNat_nodeWord_of_internal⟩,
    ⟨_, rfl, rfl, BitVec.toNat_setWidth_of_le (by decide)⟩, ⟨_, rfl, rfl, fun j hj => getLsbD_readChunk _ k j hj⟩⟩

end Sys2Proof.Proofs
end

section
/-! The decoder reads back what the encoder writes (R91 to R93), as a word and as bytes in the lanes of R63. -/

namespace Sys2Proof.Proofs

open Sys2Proof Sys2Proof.Machine Sys2Proof.Laws

/-! ### The word of a command -/

theorem opField_encode (i : Instr) : opField (encode i) = i.opcode := opField_append _ _

/-- R95: a command's word has no reserved bit set. -/
theorem encode_and_rsv (i : Instr) : encode i &&& i.format.rsv = 0#32 := by
  cases i with
  | nop | softReset | clrErr | fcClear | tbBuild | caAssign | ctClear | ctValidate | enStart | enFlush | deStart | deEnd =>
    exact append_and_mask _ 0#24 0x00FFFFFF#24 BitVec.zero_and
  | fcCount sym | fcSet sym | fcRead sym | ctReadlen sym | enSym sym | deByte sym =>
    exact append_and_mask _ _ _ (payload_S sym)
  | tbReadw idx | tbReadn idx => exact append_and_mask _ _ _ (payload_I idx)
  | ctSetlen sym len => exact append_and_mask _ _ _ (payload_SL sym len)
  | ctSetbits sym chunk | ctReadbits sym chunk => exact append_and_mask _ _ _ (payload_SC sym chunk)

/-- A row of the decoder gives its command for the command's own word, once its fields are read back. -/
theorem decodeAs_encode {i j : Instr} (h : j = i) : decodeAs i.format (encode i) j = .instr i :=
  (if_pos (encode_and_rsv i)).trans (congrArg Decoded.instr h)

/-- R92: the lowest field of a word. -/
theorem extract_low_field {n len : Nat} (op : BitVec 8) (x : BitVec n) (y : BitVec len) :
    (op ++ (x ++ y)).extractLsb' 0 len = y := by
  rw [BitVec.extractLsb'_append_eq_of_add_le (by omega), BitVec.extractLsb'_append_eq_right]

/-- R92: the field above the lowest one. -/
theorem extract_next_field {n len m : Nat} (op : BitVec 8) (x : BitVec n) (y : BitVec len) (z : BitVec m) :
    (op ++ (x ++ y ++ z)).extractLsb' m len = y := by
  rw [BitVec.extractLsb'_append_eq_of_add_le (by omega), BitVec.extractLsb'_append_eq_of_le (Nat.le_refl m),
    Nat.sub_self, BitVec.extractLsb'_append_eq_right]

theorem decode_encode (i : Instr) : decode (encode i) = .instr i := by
  unfold decode
  rw [opField_encode]
  cases i with
  | nop | softReset | clrErr | fcClear | tbBuild | caAssign | ctClear | ctValidate | enStart | enFlush | deStart | deEnd =>
    exact decodeAs_encode rfl
  | fcCount sym | fcSet sym | fcRead sym | ctReadlen sym | enSym sym | deByte sym =>
    exact decodeAs_encode (congrArg _ (extract_low_field _ 0#16 sym))
  | tbReadw idx | tbReadn idx => exact decodeAs_encode (congrArg _ (extract_low_field _ 0#15 idx))
  | ctSetlen sym len =>
    exact decodeAs_encode (congrArg₂ _ (extract_low_field _ (0#8 ++ len) sym) (extract_next_field _ 0#8 len sym))
  | ctSetbits sym chunk | ctReadbits sym chunk =>
    exact decodeAs_encode (congrArg₂ _ (extract_low_field _ (0#13 ++ chunk) sym) (extract_next_field _ 0#13 chunk sym))

/-! ### The bytes of a word -/

/-- R63: the lanes of a word, put back in order, are the word. -/
theorem wordOfBytes_lanes (w : Word) :
    wordOfBytes (byteLane w 0) (byteLane w 1) (byteLane w 2) (byteLane w 3) = w := by
  have hjoin : ∀ {a b n m : Nat}, a = b + n → w.extractLsb' a m ++ w.extractLsb' b n = w.extractLsb' b (m + n) :=
    BitVec.extractLsb'_append_extractLsb'_eq_extractLsb'
  unfold wordOfBytes byteLane
  rw [hjoin (by rfl), hjoin (by rfl), hjoin (by rfl)]
  exact BitVec.extractLsb'_eq_self

/-- Settles O6: the four lanes make up the command's word again, which decodes to the command. -/
theorem commandBytesDecode : Obligations.CommandBytesDecode := by
  intro i rest
  simp [wordBytes, decodeBytes, wordOfBytes_lanes, decode_encode]

end Sys2Proof.Proofs
end

section
/-! The accesses of the port in general: narrow and misaligned ones (R62), reads of every register (R65), and what no action
touches of the parameters and the host's own stream (R61, R70). -/

namespace Sys2Proof.Proofs

open Sys2Proof Sys2Proof.Machine Sys2Proof.Laws

variable {s t : State} {rest : List HostAction}

/-! ### Narrow and misaligned accesses -/

theorem accessWf_eq_false {off : Offset} {size : AccessSize} (h : size ≠ .word ∨ off.toNat % 4 ≠ 0) :
    accessWf size off = false :=
  Bool.and_eq_false_iff.mpr (h.imp beq_eq_false_iff_ne.mpr beq_eq_false_iff_ne.mpr)

theorem perform_write_partial {off : Offset} {size : AccessSize} (v : Word) (s : State)
    (h : accessWf size off = false) : perform (.write off size v) s = .next s := by
  simp [perform, h]

theorem perform_read_partial {off : Offset} {size : AccessSize} (s : State) (h : accessWf size off = false) :
    perform (.read off size) s = .next (respond 0 s) := by
  simp [perform, h]

/-- Settles O10: the access fails the port's check, so the write is ignored and the read answered with 0. -/
theorem partialAccessesIgnored : Obligations.PartialAccessesIgnored := by
  intro s off size v rest hbusy h
  have hwf := accessWf_eq_false h
  refine ⟨fun hp => ?_, fun hp => ?_⟩
  · rw [step_of_pending hbusy hp, perform_write_partial v _ hwf]
  · rw [step_of_pending hbusy hp, perform_read_partial _ hwf]
    rfl

/-! ### Reads -/

/-- The value of a read (R61): the register's, or 0 for a narrow or misaligned one (R62). -/
def readValue (off : Offset) (size : AccessSize) (s : State) : Word := if accessWf size off then (readReg off s).1 else 0

/-- No register shows the host's stream. -/
theorem readValue_port (off : Offset) (size : AccessSize) (s : State) (as : List HostAction) (vs : List Word) :
    readValue off size { s with pending := as, responses := vs } = readValue off size s := by
  have hreg : (readReg off { s with pending := as, responses := vs }).1 = (readReg off s).1 := by
    unfold readReg
    split
    case h_7 => cases h : s.packer.pkq <;> simp [State.popPk, h]
    case h_8 => cases h : s.unpacker.dkq <;> simp [State.popDk, h]
    all_goals rfl
  rw [readValue, hreg, readValue]

/-- A read answers its value; what else it does is the register's (R65). -/
theorem perform_read (off : Offset) (size : AccessSize) (s : State) :
    perform (.read off size) s =
      .next (respond (readValue off size s) (if accessWf size off then (readReg off s).2 else s)) := by
  cases hwf : accessWf size off <;> simp [perform, readValue, hwf]

/-- R65: a read of any register but PK_OUT and DK_OUT answers its value and does nothing else. -/
theorem step_read_idempotent {off : Offset} {size : AccessSize} (hbusy : s.busy = false)
    (hp : s.pending = .read off size :: rest) (hpk : off ≠ pkOutOffset) (hdk : off ≠ dkOutOffset) :
    step s = .next { s with pending := rest, responses := s.responses ++ [readValue off size s] } := by
  rw [step_of_pending hbusy hp, perform_read, readReg_state _ hpk hdk, ite_self, respond]
  rw [readValue_port off size s rest s.responses]

/-- Settles O13: the first read changes the host's stream alone, which the second one does not show. -/
theorem readsIdempotentExceptPops : Obligations.ReadsIdempotentExceptPops := by
  intro s off rest hbusy hpk hdk hp
  let t : State := { s with pending := .read off .word :: rest, responses := s.responses ++ [readValue off .word s] }
  have hvalue : readValue off .word t = readValue off .word s := readValue_port off .word s _ _
  have hsecond : step t = .next { t with pending := rest, responses := t.responses ++ [readValue off .word t] } :=
    step_read_idempotent hbusy rfl hpk hdk
  rw [hvalue, List.append_assoc] at hsecond
  exact ⟨t, readValue off .word s, step_read_idempotent hbusy hp hpk hdk, rfl, hsecond⟩

/-! ### What no action touches -/

/-- The two states have the same parameters, pending actions and answers. -/
structure SamePort (s t : State) : Prop where
  config : t.config = s.config
  pending : t.pending = s.pending
  responses : t.responses = s.responses

/-- No command, SOFT_RESET among them, touches the parameters or the host's stream. -/
theorem effect_samePort {i : Instr} (h : Effect s i t) : SamePort s t := by
  cases h <;> constructor <;> simp

theorem issue_samePort {w : Word} (h : issue w s = .next t) : SamePort s t := by
  obtain ⟨u, hu, rfl⟩ := finishCommand_cases h
  cases hd : decode w with
  | instr i =>
    rw [hd] at hu
    obtain ⟨hconfig, hpending, hresponses⟩ := effect_samePort (exec_effect hu)
    exact ⟨hconfig, hpending, hresponses⟩
  | rejected e =>
    rw [hd] at hu
    injection hu with hu
    subst hu
    constructor <;> simp

theorem writeReg_samePort {off : Offset} {v : Word} (h : writeReg off v s = .next t) : SamePort s t := by
  unfold writeReg at h
  split at h
  · exact issue_samePort h
  all_goals
    injection h with h
    exact h ▸ ⟨rfl, rfl, rfl⟩

theorem readReg_samePort (off : Offset) (s : State) : SamePort s (readReg off s).2 := by
  by_cases hpk : off = pkOutOffset
  · rw [hpk, show readReg pkOutOffset s = s.popPk from rfl, popPk_state]
    exact ⟨rfl, rfl, rfl⟩
  by_cases hdk : off = dkOutOffset
  · rw [hdk, show readReg dkOutOffset s = s.popDk from rfl, popDk_state]
    exact ⟨rfl, rfl, rfl⟩
  rw [readReg_state s hpk hdk]
  exact ⟨rfl, rfl, rfl⟩

/-- Settles O9: the step performs the action at the head of the stream, and only a read adds an answer. -/
theorem portServesAccessesInOrder : Obligations.PortServesAccessesInOrder := by
  intro s a rest hbusy hp
  obtain ⟨t, ht⟩ := everyStepAnswersNextState s
  have hperf := (step_of_pending hbusy hp).symm.trans ht
  refine ⟨t, ht, ?_⟩
  suffices h : t.pending = rest ∧ t.config = s.config ∧ t.responses = _ from ⟨h.1, step_busy hbusy ht, h.2⟩
  cases a with
  | write off size v =>
    have hsame : SamePort { s with pending := rest } t :=
      endsIn_ite (P := SamePort _) (fun _ _ h => writeReg_samePort h) (fun _ => endsIn_next ⟨rfl, rfl, rfl⟩) t hperf
    exact ⟨hsame.pending, hsame.config, hsame.responses.trans (List.append_nil _).symm⟩
  | read off size =>
    rw [perform_read, readValue_port off size s rest s.responses] at hperf
    injection hperf with hperf
    subst hperf
    have hsame : SamePort { s with pending := rest }
      (if accessWf size off then (readReg off { s with pending := rest }).2 else { s with pending := rest }) := by
      split
      · exact readReg_samePort off _
      · exact ⟨rfl, rfl, rfl⟩
    exact ⟨hsame.pending, hsame.config, congrArg (· ++ _) hsame.responses⟩
  | reset =>
    injection hperf with hperf
    subst hperf
    exact ⟨rfl, rfl, (List.append_nil _).symm⟩

end Sys2Proof.Proofs
end

section
/-! The packer's bits (R203) and the bytes that hold a bit string (R64). -/

namespace Sys2Proof.Proofs

open Sys2Proof Sys2Proof.Machine Sys2Proof.Laws

/-! ### The bits the packer holds -/

theorem take_byteBits (v : Byte) {n : Nat} (hn : n ≤ 8) : (byteBits v).take n = (List.range n).map v.getLsbD := by
  rw [byteBits, ← List.map_take, List.take_range, Nat.min_eq_left hn]

/-- A bit written at position n of ACC joins the n bits below it. -/
theorem take_byteBits_setBit (acc : Byte) {n : Nat} (hn : n < 8) (b : Bool) :
    (byteBits (setBit acc n b)).take (n + 1) = (byteBits acc).take n ++ [b] := by
  have hbelow : (List.range n).map (setBit acc n b).getLsbD = (List.range n).map acc.getLsbD :=
    List.map_congr_left fun j hj => by
      have hne : j ≠ n := Nat.ne_of_lt (List.mem_range.mp hj)
      simp [getLsbD_setBit, hne]
  rw [take_byteBits _ hn, take_byteBits _ (Nat.le_of_lt hn), List.range_succ, List.map_append, hbelow]
  rw [List.map_singleton, getLsbD_setBit, if_pos ⟨rfl, hn⟩]

/-- R203: AppendBit adds its bit behind those the packer holds. -/
theorem appendBit_bits (p : Packer) (b : Bool) : (p.appendBit b).bits = p.bits ++ [b] := by
  have hlt := p.accLen.isLt
  have hbits := take_byteBits_setBit p.acc hlt b
  by_cases hfull : p.accLen.toNat = 7
  · rw [hfull, List.take_of_length_le (by simp)] at hbits
    simp [appendBit_full b hfull, Packer.bits, hbits, hfull]
  · have hmod : (p.accLen.toNat + 1) % 8 = p.accLen.toNat + 1 := Nat.mod_eq_of_lt (by omega)
    simp [appendBit_partial b hfull, Packer.bits, hmod, hbits]

theorem appendBits_bits (p : Packer) (bs : List Bool) : (p.appendBits bs).bits = p.bits ++ bs := by
  induction bs generalizing p with
  | nil => simp
  | cons b bs ih => rw [appendBits_cons, ih, appendBit_bits, List.append_assoc, List.singleton_append]

/-! ### The bytes of a bit string -/

theorem packsTo_nil : PacksTo [] [] := ⟨rfl, fun k hk => absurd hk (Nat.not_lt_zero k)⟩

/-- R64: the bits of a whole byte go before the rest. -/
theorem packsTo_cons (b : Byte) {bytes : List Byte} {bits : List Bool} (h : PacksTo bytes bits) :
    PacksTo (b :: bytes) (byteBits b ++ bits) := by
  obtain ⟨hlen, hbits⟩ := h
  refine ⟨by simp only [List.length_cons, List.length_append, length_byteBits]; omega, fun k hk => ?_⟩
  rw [List.length_cons] at hk
  by_cases hfirst : k < 8
  · rw [List.getElem?_append_left (by simpa using hfirst), getElem?_byteBits b k hfirst, Nat.div_eq_of_lt hfirst,
      Nat.mod_eq_of_lt hfirst]
    rfl
  · have hrest := hbits (k - 8) (by omega)
    rw [List.getElem?_append_right (by simpa using hfirst), length_byteBits, ← hrest,
      show k / 8 = (k - 8) / 8 + 1 by omega, show k % 8 = (k - 8) % 8 by omega, List.getElem?_cons_succ]

theorem packsTo_append (bytes : List Byte) {last : List Byte} {bits : List Bool} (h : PacksTo last bits) :
    PacksTo (bytes ++ last) (bytes.flatMap byteBits ++ bits) := by
  induction bytes with
  | nil => exact h
  | cons b bytes ih =>
    rw [List.flatMap_cons, List.append_assoc]
    exact packsTo_cons b ih

/-- R202: the byte EN_FLUSH pushes holds the pending bits, the rest of it being 0; with none pending there is no byte. -/
theorem packsTo_pending {acc : Byte} {n : BitVec 3} (h : acc.toNat < 2 ^ n.toNat) :
    PacksTo (if n ≠ 0 then [acc] else []) ((byteBits acc).take n.toNat) := by
  by_cases hn : n = 0
  · simpa [hn] using packsTo_nil
  have hlt := n.isLt
  have hpos : n.toNat ≠ 0 := fun h0 => hn (BitVec.eq_of_toNat_eq h0)
  rw [if_pos hn]
  refine ⟨by simp only [List.length_singleton, List.length_take, length_byteBits]; omega, fun k hk => ?_⟩
  rw [List.length_singleton] at hk
  rw [Nat.div_eq_of_lt hk, Nat.mod_eq_of_lt hk, List.getElem?_take]
  by_cases hin : k < n.toNat
  · rw [if_pos hin, getElem?_byteBits acc k hk]
    rfl
  · rw [if_neg hin]
    exact Nat.testBit_lt_two_pow (h.trans_le (Nat.pow_le_pow_right Nat.two_pos (Nat.le_of_not_lt hin)))

end Sys2Proof.Proofs
end

section
/-! An encode session (R200 to R204): every EN_SYM is drained before the next, so it always finds room, and the bytes drained
with the bits still pending are the codes so far. -/

namespace Sys2Proof.Proofs

open Sys2Proof Sys2Proof.Machine Sys2Proof.Laws

variable {s t : State}

/-! ### Host programs -/

/-- A command written to CMD is its meaning, between BUSY <- 1 and BUSY <- 0 (R97). -/
theorem runCommand_of_exec {i : Instr} (h : exec i { s with busy := true } = .next t) :
    runCommand i s = { t with busy := false } := by
  rw [runCommand, command, writeCmd, perform_write_word _ _ rfl,
    show writeReg cmdOffset (encode i) s = issue (encode i) s from rfl, issue_of_decode s (decode_encode i), h]
  rfl

/-- R102: draining PKQ gives all its bytes, in order, and leaves it empty. -/
theorem drainPk_eq (s : State) : drainPk s = (s.packer.pkq, { s with packer := { s.packer with pkq := [] } }) := by
  unfold drainPk
  generalize hq : s.packer.pkq = q
  induction q generalizing s with
  | nil =>
    have hpop : readReg pkOutOffset s = (0#32, s) := popPk_nil hq
    simp only [drain, hpop, ← hq]
    rfl
  | cons b q ih =>
    have hpop : readReg pkOutOffset s = (validEntry b, { s with packer := { s.packer with pkq := q } }) := popPk_cons hq
    simp only [drain, hpop, validEntry_valid, validEntry_byte, if_true]
    rw [List.length_cons, ih _ rfl]

/-! ### The commands when nothing refuses them -/

theorem exec_enStart (herr : s.errcause = .noError) (hvalid : s.tableValid = true) :
    exec .enStart s = .next { s with packer := { active := true, acc := 0, accLen := 0, pkq := [] } } :=
  (gated_of_noError herr _ : execEnStart s = _).trans (if_pos hvalid)

/-- R201: EN_SYM with a session open, a code for its symbol and room for the bytes the code completes. -/
theorem exec_enSym {x : Symbol} (herr : s.errcause = .noError) (hactive : s.packer.active = true)
    (hcode : s.table.codeOf x ≠ [])
    (hroom : (s.packer.accLen.toNat + (s.entryOf x).len.toNat) / 8 ≤ s.config.pkDepth.val - s.packer.pkq.length) :
    exec (.enSym x) s = .next { s with packer := s.packer.appendBits (s.table.codeOf x) } := by
  have hlen : (s.entryOf x).len ≠ 0 := fun h => hcode ((code_eq_nil_iff _).mpr h)
  refine (gated_of_noError herr _ : execEnSym x s = _).trans ?_
  dsimp only
  rw [if_neg (by simp [hactive]), if_neg hlen, if_neg (Nat.not_lt.mpr hroom)]
  rfl

/-- R202: EN_FLUSH with a session open and room for the last byte. -/
theorem exec_enFlush (herr : s.errcause = .noError) (hactive : s.packer.active = true)
    (hroom : ¬ (s.packer.accLen ≠ 0 ∧ s.packer.pkq.length = s.config.pkDepth.val)) :
    exec .enFlush s = .next
      { s with packer := { active := false, acc := 0, accLen := 0,
                           pkq := s.packer.pkq ++ if s.packer.accLen ≠ 0 then [s.packer.acc] else [] } } := by
  refine (gated_of_noError herr _ : execEnFlush s = _).trans ?_
  rw [if_neg (by simp [hactive]), if_neg hroom]
  by_cases hpending : s.packer.accLen ≠ 0
  · simp only [if_pos hpending]
  · simp only [if_neg hpending, List.append_nil]

/-! ### The session -/

/-- An encode session in progress, PKQ drained. -/
structure Encoding (s : State) : Prop where
  noError : s.errcause = .noError
  active : s.packer.active = true
  drained : s.packer.pkq = []
  clean : s.packer.acc.toNat < 2 ^ s.packer.accLen.toNat

/-- The state behind EN_SYM x and DRAIN_PK in a session. -/
def afterSymbol (x : Symbol) (s : State) : State :=
  { s with busy := false, packer := { s.packer.appendBits (s.table.codeOf x) with pkq := [] } }

theorem encoding_afterSymbol (h : Encoding s) (x : Symbol) : Encoding (afterSymbol x s) where
  noError := h.noError
  active := (appendBits_active _ _).trans h.active
  drained := rfl
  clean := appendBits_acc_lt h.clean _

/-- R201: one symbol of ENCODE; a code is at most 255 bits long, so an empty PKQ of any legal depth has room. -/
theorem Encoding.drainPk_enSym (h : Encoding s) {x : Symbol} (hcode : s.table.codeOf x ≠ []) :
    drainPk (runCommand (.enSym x) s) = ((s.packer.appendBits (s.table.codeOf x)).pkq, afterSymbol x s) := by
  have hacc := s.packer.accLen.isLt
  have hlen := (s.entryOf x).len.isLt
  have hdepth := s.config.pkDepth.property
  rw [runCommand_of_exec (exec_enSym (s := { s with busy := true }) h.noError h.active hcode ?_), drainPk_eq]
  · rfl
  · show (s.packer.accLen.toNat + (s.entryOf x).len.toNat) / 8 ≤ s.config.pkDepth.val - s.packer.pkq.length
    rw [h.drained, List.length_nil]
    omega

/-- The bytes drained and the bits still pending are the bits pending before and the codes. -/
theorem Encoding.encodeSymbols_spec (h : Encoding s) {xs : List Symbol} (hcodes : ∀ x ∈ xs, s.table.codeOf x ≠ []) :
    Encoding (encodeSymbols xs s).2 ∧
    (encodeSymbols xs s).1.flatMap byteBits ++ (encodeSymbols xs s).2.packer.bits =
      s.packer.bits ++ s.table.bitstream xs := by
  induction xs generalizing s with
  | nil => exact ⟨h, by simp [encodeSymbols]⟩
  | cons x xs ih =>
    obtain ⟨hsession, hbits⟩ := ih (encoding_afterSymbol h x) fun y hy => hcodes y (.tail x hy)
    have hx := appendBits_bits s.packer (s.table.codeOf x)
    simp only [encodeSymbols, h.drainPk_enSym (hcodes x (.head xs))]
    refine ⟨hsession, ?_⟩
    rw [List.flatMap_append, List.append_assoc, hbits, bitstream_cons, ← List.append_assoc s.packer.bits, ← hx]
    simp [Packer.bits, afterSymbol]

/-- R202: EN_FLUSH and DRAIN_PK close a session; PKQ is empty before, so the last byte finds room. -/
theorem Encoding.drainPk_enFlush (h : Encoding s) :
    drainPk (runCommand .enFlush s) =
      (if s.packer.accLen ≠ 0 then [s.packer.acc] else [],
        { s with busy := false, packer := { active := false, acc := 0, accLen := 0, pkq := [] } }) := by
  have hroom : ¬ (s.packer.accLen ≠ 0 ∧ s.packer.pkq.length = s.config.pkDepth.val) := by
    have hdepth := s.config.pkDepth.property
    rw [h.drained, List.length_nil]
    omega
  rw [runCommand_of_exec (exec_enFlush (s := { s with busy := true }) h.noError h.active hroom), drainPk_eq, h.drained]
  rfl

/-- Settles O47: the bytes drained on the way and the flushed byte hold the codes, the pending bits in the last one. -/
theorem encodeSessionPacksBitstream : Obligations.EncodeSessionPacksBitstream := by
  intro s xs herr hvalid hcodes
  have hstart := runCommand_of_exec (exec_enStart (s := { s with busy := true }) herr hvalid)
  have hopen : Encoding (runCommand .enStart s) := hstart ▸ ⟨herr, rfl, rfl, Nat.one_pos⟩
  have htable : (runCommand .enStart s).table = s.table := hstart ▸ rfl
  have hempty : (runCommand .enStart s).packer.bits = [] := hstart ▸ rfl
  obtain ⟨hsession, hbits⟩ := hopen.encodeSymbols_spec (htable ▸ hcodes)
  rw [htable, hempty, List.nil_append, Packer.bits, hsession.drained, List.flatMap_nil, List.nil_append] at hbits
  simp only [encodeStream, hsession.drainPk_enFlush]
  refine ⟨?_, hsession.noError, trivial, trivial⟩
  rw [← hbits]
  exact packsTo_append _ (packsTo_pending hsession.clean)

end Sys2Proof.Proofs
end

section
/-! The decoder and the encoder are inverse to each other (R90 to R95).  Each row of the opcode map is said once, through
`withFields`: a word with the opcode of a row decodes to the row's command with the operands read from the word, or is
rejected for a reserved bit; a word that decodes has the opcode of its command. -/

namespace Sys2Proof.Proofs

open Sys2Proof Sys2Proof.Machine Sys2Proof.Laws
open BitVec (extractLsb'_append_extractLsb'_eq_extractLsb')

variable {w : Word} {i k : Instr}

/-! ### Words and their fields -/

/-- A field that a mask covers is 0 in a word that has no bit under the mask. -/
theorem extract_eq_zero_of_and_mask {m : Word} {start len : Nat} (h : w &&& m = 0#32)
    (hm : m.extractLsb' start len = BitVec.allOnes len) : w.extractLsb' start len = 0#len := by
  have hfield := congrArg (BitVec.extractLsb' start len) h
  rw [BitVec.extractLsb'_and, hm, BitVec.and_allOnes] at hfield
  rw [hfield, BitVec.extractLsb'_zero]

/-- R95: a reserved field in front of a field of a word that has no reserved bit set. -/
theorem zero_append_extract {m : Word} {start len b n : Nat} (h : w &&& m = 0#32)
    (hm : m.extractLsb' start len = BitVec.allOnes len) (hstart : start = b + n) :
    0#len ++ w.extractLsb' b n = w.extractLsb' b (len + n) := by
  rw [← extract_eq_zero_of_and_mask h hm, extractLsb'_append_extractLsb'_eq_extractLsb' hstart]

/-- R90: a word is its opcode field in front of its low 24 bits. -/
theorem opField_append_low (w : Word) : opField w ++ w.extractLsb' 0 24 = w :=
  (extractLsb'_append_extractLsb'_eq_extractLsb' rfl).trans BitVec.extractLsb'_eq_self

/-! ### The rows of the opcode map -/

/-- The command of a row of the opcode map with its operands read from a word (R92, R93). -/
def withFields (w : Word) : Instr → Instr
  | .fcCount _ => .fcCount (symField w)
  | .fcSet _ => .fcSet (symField w)
  | .fcRead _ => .fcRead (symField w)
  | .tbReadw _ => .tbReadw (idxField w)
  | .tbReadn _ => .tbReadn (idxField w)
  | .ctSetlen _ _ => .ctSetlen (symField w) (lenField w)
  | .ctSetbits _ _ => .ctSetbits (symField w) (chunkField w)
  | .ctReadlen _ => .ctReadlen (symField w)
  | .ctReadbits _ _ => .ctReadbits (symField w) (chunkField w)
  | .enSym _ => .enSym (symField w)
  | .deByte _ => .deByte (symField w)
  | k => k

@[simp] theorem withFields_opcode (w : Word) (k : Instr) : (withFields w k).opcode = k.opcode := by
  cases k <;> rfl

theorem decodeAs_eq_instr_iff {f : Format} {j : Instr} : decodeAs f w j = .instr i ↔ w &&& f.rsv = 0#32 ∧ j = i := by
  unfold decodeAs
  split <;> simp [*]

/-- R93: the opcode of a row makes the decoder read that row. -/
theorem decode_of_opcode (h : opField w = k.opcode) : decode w = decodeAs k.format w (withFields w k) := by
  unfold decode
  rw [h]
  cases k <;> rfl

/-- R93: the decoder answers a command of the row that the opcode names. -/
theorem opField_of_decode (h : decode w = .instr i) : opField w = i.opcode := by
  unfold decode at h
  split at h
  case h_24 => cases h
  all_goals
    next hop =>
      obtain ⟨-, rfl⟩ := decodeAs_eq_instr_iff.mp h
      exact BitVec.eq_of_toNat_eq hop

/-- R92 to R95: everything a word that decodes is known to be. -/
theorem decode_eq_instr_iff :
    decode w = .instr i ↔ opField w = i.opcode ∧ w &&& i.format.rsv = 0#32 ∧ withFields w i = i := by
  constructor
  · intro h
    have hop := opField_of_decode h
    exact ⟨hop, decodeAs_eq_instr_iff.mp (decode_of_opcode hop ▸ h)⟩
  · rintro ⟨hop, hrow⟩
    exact (decode_of_opcode hop).trans (decodeAs_eq_instr_iff.mpr hrow)

/-! ### Encoding what was decoded -/

/-- R91: with the reserved bits 0, the low 24 bits of a word are the operands' fields of its row. -/
theorem payload_withFields (h : w &&& k.format.rsv = 0#32) : (withFields w k).payload = w.extractLsb' 0 24 := by
  cases k with
  | nop | softReset | clrErr | fcClear | tbBuild | caAssign | ctClear | ctValidate | enStart | enFlush | deStart | deEnd =>
    exact (extract_eq_zero_of_and_mask h rfl).symm
  | fcCount | fcSet | fcRead | ctReadlen | enSym | deByte =>
    exact zero_append_extract (m := Format.S.rsv) h rfl rfl
  | tbReadw | tbReadn => exact zero_append_extract (m := Format.I.rsv) h rfl rfl
  | ctSetlen =>
    have hlen : 0#8 ++ lenField w = w.extractLsb' 8 16 := zero_append_extract (m := Format.SL.rsv) h rfl rfl
    exact (congrArg (· ++ symField w) hlen).trans (extractLsb'_append_extractLsb'_eq_extractLsb' rfl)
  | ctSetbits | ctReadbits =>
    have hchunk : 0#13 ++ chunkField w = w.extractLsb' 8 16 := zero_append_extract (m := Format.SC.rsv) h rfl rfl
    exact (congrArg (· ++ symField w) hchunk).trans (extractLsb'_append_extractLsb'_eq_extractLsb' rfl)

theorem encode_of_decode (h : decode w = .instr i) : encode i = w := by
  obtain ⟨hop, hrsv, hfields⟩ := decode_eq_instr_iff.mp h
  have hpayload := payload_withFields hrsv
  rw [hfields] at hpayload
  rw [encode, ← hop, hpayload, opField_append_low]

/-- R92: the operand widths are those of the fields, so no command is out of range. -/
theorem instr_wf (i : Instr) : i.wf = true := by
  cases i with
  | nop | softReset | clrErr | fcClear | tbBuild | caAssign | ctClear | ctValidate | enStart | enFlush | deStart | deEnd =>
    rfl
  | fcCount x | fcSet x | fcRead x | ctReadlen x | enSym x | deByte x | tbReadw x | tbReadn x =>
    exact decide_eq_true (Nat.le_of_lt_succ x.isLt)
  | ctSetlen x y | ctSetbits x y | ctReadbits x y =>
    exact Bool.and_eq_true_iff.mpr
      ⟨decide_eq_true (Nat.le_of_lt_succ x.isLt), decide_eq_true (Nat.le_of_lt_succ y.isLt)⟩

/-- Settles O1: `decode_encode`, which reads every field of the word back. -/
theorem decodeInvertsEncode : Obligations.DecodeInvertsEncode := fun i _ => decode_encode i

/-- Settles O2: a word is its opcode, its operands' fields and its reserved bits, which are 0. -/
theorem encodeInvertsDecode : Obligations.EncodeInvertsDecode := fun _ i h => ⟨encode_of_decode h, instr_wf i⟩

/-- Settles O5: each word is the encoding of its command. -/
theorem sampleWordsDecode : Obligations.SampleWordsDecode :=
  ⟨decode_encode .clrErr, decode_encode (.fcCount 0x61), decode_encode (.tbReadn 510), decode_encode (.ctSetlen 0x41 255),
    decode_encode (.ctSetbits 0x41 7), decode_encode (.enSym 0x62), decode_encode (.deByte 0xFF)⟩

/-! ### The mask and match of a row -/

/-- The reserved bits of a row lie below its opcode. -/
theorem and_rsv_eq (w : Word) (k : Instr) :
    w &&& k.format.rsv = 0#8 ++ (w.extractLsb' 0 24 &&& k.format.rsv.extractLsb' 0 24) := by
  have hrsv : k.format.rsv = 0#8 ++ k.format.rsv.extractLsb' 0 24 := by
    cases k.format <;> rfl
  conv_lhs => rw [← opField_append_low w, hrsv, BitVec.and_append, BitVec.and_zero]

/-- A row's mask keeps the opcode and the reserved bits. -/
theorem and_rowMask_eq (w : Word) (k : Instr) :
    w &&& k.rowMask = opField w ++ (w.extractLsb' 0 24 &&& k.format.rsv.extractLsb' 0 24) := by
  have hmask : k.rowMask = BitVec.allOnes 8 ++ k.format.rsv.extractLsb' 0 24 := by
    unfold Instr.rowMask
    cases k.format <;> rfl
  conv_lhs => rw [← opField_append_low w, hmask, BitVec.and_append, BitVec.and_allOnes]

/-- R93: a row's mask and match test the opcode and the reserved bits. -/
theorem and_rowMask_eq_rowMatch_iff (w : Word) (k : Instr) :
    w &&& k.rowMask = k.rowMatch ↔ opField w = k.opcode ∧ w &&& k.format.rsv = 0#32 := by
  rw [and_rowMask_eq, and_rsv_eq, Instr.rowMatch, show 0#32 = 0#8 ++ 0#24 from rfl, BitVec.append_right_inj]
  constructor
  · intro h
    have hop := congrArg opField h
    rw [opField_append, opField_append] at hop
    rw [hop, BitVec.append_right_inj] at h
    exact ⟨hop, h⟩
  · rintro ⟨hop, hrsv⟩
    rw [hop, hrsv]

/-- Settles O3: the row whose mask and match the word meets is the one the decoder reads. -/
theorem wordSelectsRowByMaskAndMatch : Obligations.WordSelectsRowByMaskAndMatch := by
  intro w k
  rw [and_rowMask_eq_rowMatch_iff]
  constructor
  · rintro ⟨i, hdecode, hop⟩
    have hk : opField w = k.opcode := (opField_of_decode hdecode).trans hop
    rw [decode_of_opcode hk, decodeAs_eq_instr_iff] at hdecode
    exact ⟨hk, hdecode.1⟩
  · rintro ⟨hop, hrsv⟩
    exact ⟨withFields w k, (decode_of_opcode hop).trans (decodeAs_eq_instr_iff.mpr ⟨hrsv, rfl⟩), withFields_opcode w k⟩

/-! ### Illegal words -/

/-- The opcodes that the opcode map leaves out (R94). -/
def UnassignedOp (op : Nat) : Prop :=
  (0x03 ≤ op ∧ op ≤ 0x0F) ∨ (0x14 ≤ op ∧ op ≤ 0x1F) ∨ (0x23 ≤ op ∧ op ≤ 0x2F) ∨ (0x37 ≤ op ∧ op ≤ 0x3F) ∨
    (0x43 ≤ op ∧ op ≤ 0x4F) ∨ 0x53 ≤ op

theorem opcode_assigned (i : Instr) : ¬ UnassignedOp i.opcode.toNat := by
  unfold UnassignedOp
  cases i <;> simp [Instr.opcode]

/-- R94, R97: a word that selects no command raises ILLEGAL_CMD and does nothing else. -/
theorem issue_of_not_decoded (s : State) (h : ∀ i, decode w ≠ .instr i) :
    issue w s =
      .next { s with busy := false, errcause := if s.errcause = .noError then .illegalCmd else s.errcause } := by
  cases hdecode : decode w with
  | instr i => exact absurd hdecode (h i)
  | rejected e =>
    simp only [issue, hdecode, finishCommand_next, State.raise]
    split <;> rfl

/-- Settles O4: no command has an unassigned opcode, and the row of an assigned one asks for its reserved bits to be 0. -/
theorem illegalWordRaisesOnlyIllegalCmd : Obligations.IllegalWordRaisesOnlyIllegalCmd := by
  intro w s h
  refine issue_of_not_decoded s fun i hdecode => ?_
  rcases h with hunassigned | ⟨k, hop, hrsv⟩
  · rw [opField_of_decode hdecode] at hunassigned
    exact opcode_assigned i hunassigned
  · rw [decode_of_opcode hop, decodeAs_eq_instr_iff] at hdecode
    exact hrsv hdecode.1

end Sys2Proof.Proofs
end

section
/-! The error gate (R98): while an error is recorded a gated command is discarded, and an ungated one does not look at
ERRCAUSE. -/

namespace Sys2Proof.Proofs

open Sys2Proof Sys2Proof.Machine Sys2Proof.Laws

/-- R98: every gated command's meaning begins with the gate. -/
theorem exec_of_isGated {i : Instr} {s : State} (hi : i.isGated = true) (herr : s.errcause ≠ .noError) :
    exec i s = .next s := by
  unfold exec
  cases i with
  | nop | softReset | clrErr | fcRead | tbReadw | tbReadn | ctReadlen | ctReadbits => cases hi
  | _ => exact gated_of_error herr _

/-- R98: an ungated command answers the same for every recorded cause, which it keeps or clears. -/
theorem exec_of_not_isGated {i : Instr} (hi : i.isGated = false) (s : State) :
    ∃ t, exec i s = .next t ∧ (t.errcause = s.errcause ∨ t.errcause = .noError) ∧
      ∀ e, ∃ t', exec i { s with errcause := e } = .next t' ∧ { t' with errcause := t.errcause } = t := by
  cases i with
  | nop | fcRead | tbReadw | tbReadn | ctReadlen | ctReadbits => exact ⟨_, rfl, .inl rfl, fun _ => ⟨_, rfl, rfl⟩⟩
  | softReset | clrErr => exact ⟨_, rfl, .inr rfl, fun _ => ⟨_, rfl, rfl⟩⟩
  | _ => cases hi

/-- R98: the ungated commands. -/
theorem isGated_eq_false_iff (i : Instr) : i.isGated = false ↔
    i = .nop ∨ i = .softReset ∨ i = .clrErr ∨ (∃ x, i = .fcRead x) ∨ (∃ x, i = .tbReadw x) ∨ (∃ x, i = .tbReadn x) ∨
      (∃ x, i = .ctReadlen x) ∨ (∃ x k, i = .ctReadbits x k) := by
  cases i <;> simp [Instr.isGated]

/-- Settles O22: the gate stands before the gated commands' rules, and only there is ERRCAUSE read. -/
theorem gateDiscardsGatedCommandsOnly : Obligations.GateDiscardsGatedCommandsOnly :=
  ⟨fun _ _ => exec_of_isGated, fun _ s hi => exec_of_not_isGated hi s, isGated_eq_false_iff⟩

end Sys2Proof.Proofs
end

section
/-! LOADCODE (R102): the chunks of the code, written one after the other, then the length that covers them. -/

namespace Sys2Proof.Proofs

open Sys2Proof Sys2Proof.Machine Sys2Proof.Laws

variable {s t : State}

/-! ### The commands when nothing refuses them -/

theorem exec_ctSetlen (herr : s.errcause = .noError) (hidle : s.sessionActive = false) (x : Symbol) (len : CodeLen) :
    exec (.ctSetlen x len) s = .next (s.setEntry x { s.entryOf x with len := len }) :=
  (gated_of_noError herr _ : execCtSetlen x len s = _).trans (guarded_of_idle hidle _)

theorem exec_ctSetbits (herr : s.errcause = .noError) (hidle : s.sessionActive = false) (x : Symbol) (k : ChunkIndex) :
    exec (.ctSetbits x k) s =
      .next (s.setEntry x { s.entryOf x with bits := writeChunk (s.entryOf x).bits k s.arg }) :=
  (gated_of_noError herr _ : execCtSetbits x k s = _).trans (guarded_of_idle hidle _)

/-! ### The chunks -/

/-- R102: the writes of chunk k of a code. -/
def chunkActions (x : Symbol) (bits : CodeBits) (k : Nat) : List HostAction :=
  [setArg (readChunk bits (BitVec.ofNat 3 k)), command (.ctSetbits x (BitVec.ofNat 3 k))]

/-- What LOADCODE has done to state `s` after n chunks of the code of symbol x. -/
structure ChunksLoaded (s : State) (x : Symbol) (bits : CodeBits) (n : Nat) (t : State) : Prop where
  noError : t.errcause = .noError
  idle : t.sessionActive = false
  others : ∀ y, y ≠ x → t.entryOf y = s.entryOf y
  loaded : ∀ j, j < 32 * n → (t.entryOf x).bits.getLsbD j = bits.getLsbD j

theorem entryOf_setEntry_same (s : State) (x : Symbol) (e : CodeEntry) : (s.setEntry x e).entryOf x = e :=
  readSym_writeSym_same _ _ _

theorem entryOf_setEntry_ne (s : State) {x y : Symbol} (e : CodeEntry) (h : y ≠ x) :
    (s.setEntry x e).entryOf y = s.entryOf y :=
  readSym_writeSym_ne _ _ h

/-- R175: after chunk k of `bits` is written, bit j is that of `bits` in the chunk and as before elsewhere. -/
theorem getLsbD_writeChunk_readChunk (v bits : CodeBits) (k : ChunkIndex) (j : Nat) :
    (writeChunk v k (readChunk bits k)).getLsbD j = if j / 32 = k.toNat then bits.getLsbD j else v.getLsbD j := by
  by_cases hj : j < 255
  · rw [getLsbD_writeChunk _ _ _ _ hj, getLsbD_readChunk _ _ _ (Nat.mod_lt j (by decide))]
    split
    · next hk => rw [← hk, Nat.div_add_mod]
    · rfl
  · have hv : ∀ u : CodeBits, u.getLsbD j = false := fun u => BitVec.getLsbD_of_ge u j (Nat.le_of_not_lt hj)
    simp [hv]

/-- The state after the writes of chunk k, with no session open and no error recorded. -/
theorem performAll_chunkActions (herr : s.errcause = .noError) (hidle : s.sessionActive = false) (x : Symbol)
    (bits : CodeBits) (k : Nat) :
    performAll (chunkActions x bits k) s =
      { s.setEntry x { s.entryOf x with
          bits := writeChunk (s.entryOf x).bits (BitVec.ofNat 3 k) (readChunk bits (BitVec.ofNat 3 k)) } with
        arg := readChunk bits (BitVec.ofNat 3 k), busy := false } :=
  runCommand_of_exec (s := { s with arg := readChunk bits (BitVec.ofNat 3 k) })
    (exec_ctSetbits (s := { s with arg := readChunk bits (BitVec.ofNat 3 k), busy := true }) herr hidle x _)

theorem ChunksLoaded.chunk {x : Symbol} {bits : CodeBits} {n : Nat} (h : ChunksLoaded s x bits n t) (hn : n < 8) :
    ChunksLoaded s x bits (n + 1) (performAll (chunkActions x bits n) t) := by
  rw [performAll_chunkActions h.noError h.idle]
  refine ⟨h.noError, h.idle, fun y hy => (entryOf_setEntry_ne t _ hy).trans (h.others y hy), fun j hj => ?_⟩
  refine (congrArg (·.bits.getLsbD j) (entryOf_setEntry_same t x _)).trans ?_
  rw [getLsbD_writeChunk_readChunk, BitVec.toNat_ofNat, Nat.mod_eq_of_lt hn]
  split
  · rfl
  · exact h.loaded j (by omega)

theorem chunksLoaded (herr : s.errcause = .noError) (hidle : s.sessionActive = false) (x : Symbol) (bits : CodeBits)
    {n : Nat} (hn : n ≤ 8) :
    ChunksLoaded s x bits n (performAll ((List.range n).flatMap (chunkActions x bits)) s) := by
  induction n with
  | zero => exact ⟨herr, hidle, fun _ _ => rfl, fun j hj => absurd hj (Nat.not_lt_zero j)⟩
  | succ n ih =>
    rw [List.range_succ, List.flatMap_append, performAll_append, List.flatMap_singleton]
    exact (ih (Nat.le_of_succ_le hn)).chunk hn

/-! ### The whole of LOADCODE -/

/-- The state after LOADCODE is the one after its chunks with the length set. -/
theorem performAll_loadCode (x : Symbol) (len : CodeLen) (bits : CodeBits) (s : State) :
    performAll (loadCode x len bits) s =
      runCommand (.ctSetlen x len)
        (performAll ((List.range ((len.toNat + 31) / 32)).flatMap (chunkActions x bits)) s) :=
  performAll_append _ _ _

/-- Settles O57: the chunks below the length hold the code's bits, and the length cuts the code to them. -/
theorem loadcodeLoadsEntry : Obligations.LoadcodeLoadsEntry := by
  intro s x len bits herr hidle
  have hlen := len.isLt
  have h := chunksLoaded herr hidle x bits (n := (len.toNat + 31) / 32) (by omega)
  rw [performAll_loadCode]
  generalize performAll _ s = u at h
  rw [runCommand_of_exec (exec_ctSetlen (s := { u with busy := true }) h.noError h.idle x len)]
  refine ⟨?_, fun y hy => (entryOf_setEntry_ne u _ hy).trans (h.others y hy), h.noError, rfl⟩
  have hentry := entryOf_setEntry_same u x { u.entryOf x with len := len }
  refine (congrArg CodeEntry.code hentry).trans (List.map_congr_left fun j hj => h.loaded j ?_)
  have hj : j < len.toNat := List.mem_range.mp hj
  omega

end Sys2Proof.Proofs
end

section
/-! The core control commands (R120 to R122): what NOP and CLR_ERR do as command words, and that CLR_ERR and SOFT_RESET alone
end a recorded error (R253, R258). -/

namespace Sys2Proof.Proofs

open Sys2Proof Sys2Proof.Machine Sys2Proof.Laws

/-- R97: the word of a command runs that command between BUSY <- 1 and BUSY <- 0. -/
theorem issue_encode (i : Instr) (s : State) : issue (encode i) s = finishCommand (exec i { s with busy := true }) :=
  issue_of_decode s (decode_encode i)

/-- Settles O20: each word is the encoding of its command. -/
theorem nopAndClrErrRun : Obligations.NopAndClrErrRun := fun s =>
  ⟨rfl, rfl, issue_encode .nop s, issue_encode .clrErr s⟩

/-- R93: different commands have different words. -/
theorem encode_inj {i j : Instr} : encode i = encode j ↔ i = j := by
  refine ⟨fun h => ?_, congrArg encode⟩
  have hdecode := congrArg decode h
  rw [decode_encode, decode_encode] at hdecode
  injection hdecode

/-- R98, R253: with an error recorded the gated commands are discarded and the ungated ones keep the cause, but for CLR_ERR
and SOFT_RESET. -/
theorem exec_errcause_of_error {s : State} (i : Instr) (herr : s.errcause ≠ .noError) :
    ∃ t, exec i s = .next t ∧ t.errcause = if i = .softReset ∨ i = .clrErr then .noError else s.errcause := by
  cases i with
  | softReset | clrErr => exact ⟨_, rfl, rfl⟩
  | nop | fcRead | tbReadw | tbReadn | ctReadlen | ctReadbits => exact ⟨_, rfl, rfl⟩
  | _ => exact ⟨s, exec_of_isGated rfl herr, rfl⟩

/-- Settles O21: a word that decodes is the word of its command, and raising ILLEGAL_CMD for another word keeps the cause. -/
theorem firstErrorSticks : Obligations.FirstErrorSticks := by
  intro w s herr
  -- The two words of the statement are those of SOFT_RESET and CLR_ERR.
  change ∃ t, _ ∧ _ = if w = encode .softReset ∨ w = encode .clrErr then _ else _
  by_cases hw : ∃ i, decode w = .instr i
  · obtain ⟨i, hdecode⟩ := hw
    obtain ⟨t, ht, hcause⟩ := exec_errcause_of_error (s := { s with busy := true }) i herr
    obtain rfl := encode_of_decode hdecode
    simp only [issue_encode, ht, encode_inj]
    exact ⟨_, rfl, hcause⟩
  · have hne : ∀ i, w ≠ encode i := fun i h => hw ⟨i, h ▸ decode_encode i⟩
    refine ⟨_, issue_of_not_decoded s (not_exists.mp hw), ?_⟩
    simp only [hne, herr, or_self, if_false]

end Sys2Proof.Proofs
end

section
/-! The frequency counter (R130 to R132): what FC_CLEAR, FC_COUNT and FC_SET do when no error is recorded, said once, and FREQ
read symbol by symbol. -/

namespace Sys2Proof.Proofs

open Sys2Proof Sys2Proof.Machine Sys2Proof.Laws

variable {s : State} {x y : Symbol}

/-! ### FREQ symbol by symbol -/

theorem toList_eq_map_readSym {α : Type} (v : Arr α 256) : v.toList = allSymbols.map (readSym v) := by
  apply List.ext_getElem
  · simp [v.length_toList]
  · intro k hk _
    have hk : k < 256 := v.length_toList ▸ hk
    simp [allSymbols, readSym, Nat.mod_eq_of_lt hk]

theorem zip_toList {α : Type} (v : Arr α 256) : allSymbols.zip v.toList = allSymbols.map fun x => (x, readSym v x) := by
  have hzip := List.zip_map' (f := id) (g := readSym v) (l := allSymbols)
  rwa [List.map_id, ← toList_eq_map_readSym] at hzip

theorem sumOf_eq_sum_map (f : Arr Word 256) : sumOf f = (allSymbols.map fun x => (readSym f x).toNat).sum := by
  rw [sumOf, toList_eq_map_readSym, List.map_map]
  rfl

theorem sumOf_le_sumOf {f g : Arr Word 256} (h : ∀ x, (readSym f x).toNat ≤ (readSym g x).toNat) :
    sumOf f ≤ sumOf g := by
  rw [sumOf_eq_sum_map, sumOf_eq_sum_map]
  exact List.sum_le_sum fun x _ => h x

@[simp] theorem freqOf_setFreq_same (s : State) (x : Symbol) (c n : Word) : (s.setFreq x c n).freqOf x = c :=
  readSym_writeSym_same _ _ _

theorem freqOf_setFreq_ne (s : State) (c n : Word) (h : y ≠ x) : (s.setFreq x c n).freqOf y = s.freqOf y :=
  readSym_writeSym_ne _ _ h

theorem mem_presentSymbols_iff (f : Arr Word 256) (x : Symbol) : x ∈ presentSymbols f ↔ readSym f x ≠ 0 := by
  rw [presentSymbols, zip_toList, List.filter_map, List.map_map]
  simp

/-! ### The commands -/

theorem exec_fcClear (herr : s.errcause = .noError) :
    exec .fcClear s = .next
      { s with fc := { freq := Arr.replicate 256 0, total := 0 }, tree := { s.tree with treeValid := false } } :=
  (gated_of_noError herr _ : execFcClear s = _)

theorem exec_fcCount (herr : s.errcause = .noError) (hroom : s.fc.total.toNat ≠ maxTotal) :
    exec (.fcCount x) s = .next (s.setFreq x (s.freqOf x + 1) (s.fc.total + 1)) :=
  (gated_of_noError herr _ : execFcCount x s = _).trans (if_neg hroom)

theorem exec_fcCount_full (herr : s.errcause = .noError) (hfull : s.fc.total.toNat = maxTotal) :
    exec (.fcCount x) s = .next { s with errcause := .lenOverflow } := by
  rw [← raise_of_noError s _ herr]
  exact (gated_of_noError herr _ : execFcCount x s = _).trans (if_pos hfull)

/-- R132: the sum that FC_SET computes before it writes is that of the counts it would leave. -/
theorem fcSet_total_eq (hs : s.CountsAgree) (x : Symbol) :
    (s.fc.total.toNat - (s.freqOf x).toNat + s.arg.toNat : Int) = sumOf (writeSym s.fc.freq x s.arg) := by
  have hsum := sumOf_writeSym s.fc.freq x s.arg
  simp only [State.CountsAgree, State.freqOf] at *
  omega

theorem exec_fcSet (herr : s.errcause = .noError) (hs : s.CountsAgree)
    (hroom : sumOf (writeSym s.fc.freq x s.arg) ≤ maxTotal) :
    exec (.fcSet x) s = .next (s.setFreq x s.arg (BitVec.ofNat 32 (sumOf (writeSym s.fc.freq x s.arg)))) := by
  refine (gated_of_noError herr _ : execFcSet x s = _).trans ?_
  simp only [fcSet_total_eq hs, BitVec.ofInt_natCast]
  exact if_neg (Int.not_lt.mpr (Int.ofNat_le.mpr hroom))

theorem exec_fcSet_full (herr : s.errcause = .noError) (hs : s.CountsAgree)
    (hfull : maxTotal < sumOf (writeSym s.fc.freq x s.arg)) :
    exec (.fcSet x) s = .next { s with errcause := .lenOverflow } := by
  rw [← raise_of_noError s _ herr]
  refine (gated_of_noError herr _ : execFcSet x s = _).trans ?_
  simp only [fcSet_total_eq hs]
  exact if_pos (Int.ofNat_lt.mpr hfull)

/-- R131: below 2^32 − 1 one more does not wrap. -/
theorem toNat_add_one {w : Word} (h : w.toNat < maxTotal) : (w + 1).toNat = w.toNat + 1 :=
  Nat.mod_eq_of_lt (Nat.add_lt_of_lt_sub h)

/-- R41: a TOTAL that is the sum of the counts written with it. -/
theorem countsAgree_setFreq_sumOf {c : Word} (h : sumOf (writeSym s.fc.freq x c) ≤ maxTotal) :
    (s.setFreq x c (BitVec.ofNat 32 (sumOf (writeSym s.fc.freq x c)))).CountsAgree :=
  (BitVec.toNat_ofNat _ _).trans (Nat.mod_eq_of_lt (Nat.lt_of_le_of_lt h (by decide)))

/-! ### The statements -/

/-- Settles O26: with no error recorded the gate lets FC_CLEAR write its three elements. -/
theorem fcClearStartsEmptyTable : Obligations.FcClearStartsEmptyTable := fun _ herr =>
  ⟨_, exec_fcClear herr, readSym_replicate 0, rfl, rfl, rfl⟩

/-- Settles O27: a count is at most TOTAL, so below 2^32 − 1 neither of the two additions wraps. -/
theorem fcCountCountsOneSymbol : Obligations.FcCountCountsOneSymbol := by
  intro s x herr hs
  have hmax : s.fc.total = 0xFFFFFFFF#32 ↔ s.fc.total.toNat = maxTotal := (BitVec.toNat_inj (y := 0xFFFFFFFF#32)).symm
  rw [ne_eq, hmax]
  refine ⟨exec_fcCount_full herr, fun hroom => ?_⟩
  have htotal : s.fc.total.toNat < maxTotal := Nat.lt_of_le_of_ne (Nat.le_pred_of_lt s.fc.total.isLt) hroom
  have hcount : (s.freqOf x).toNat ≤ s.fc.total.toNat := hs ▸ readSym_le_sumOf s.fc.freq x
  refine ⟨_, exec_fcCount herr hroom, ?_, fun y hy => freqOf_setFreq_ne s _ _ hy, toNat_add_one htotal,
    countsAgree_fcCount hs x hroom, rfl⟩
  rw [freqOf_setFreq_same, toNat_add_one (Nat.lt_of_le_of_lt hcount htotal)]

/-- Settles O28: the sum that FC_SET tests and stores is the sum of the counts it leaves. -/
theorem fcSetReplacesCount : Obligations.FcSetReplacesCount := by
  intro s x herr hs
  have hsum : s.fc.total.toNat - (s.freqOf x).toNat + s.arg.toNat = sumOf (writeSym s.fc.freq x s.arg) := by
    have hcount : (s.freqOf x).toNat ≤ s.fc.total.toNat := hs ▸ readSym_le_sumOf s.fc.freq x
    have htotal := fcSet_total_eq hs x
    omega
  rw [hsum]
  refine ⟨exec_fcSet_full herr hs, fun hroom => ?_⟩
  have hagree := countsAgree_setFreq_sumOf hroom
  refine ⟨_, exec_fcSet herr hs hroom, freqOf_setFreq_same .., fun y hy => freqOf_setFreq_ne s _ _ hy, ?_, hagree, rfl⟩
  rw [hagree, hs]
  exact sumOf_writeSym s.fc.freq x s.arg

end Sys2Proof.Proofs
end

section
/-! The weights of the tree that TB_BUILD makes (R134, R154): every merge keeps the sum of the weights in the queue, which is
TOTAL at the start, so no weight wraps and the last root weighs TOTAL. -/

namespace Sys2Proof.Proofs

open Sys2Proof Sys2Proof.Machine Sys2Proof.Laws

variable {nodes : List Node} {pq : List Nat}

/-! ### The merge loop -/

/-- What every merge keeps holds of the nodes that the loop, with enough fuel, ends with (R150). -/
theorem mergeLoop_induction {P : List Node → List Nat → Prop}
    (hmerge : ∀ {nodes pq a pq₁ b pq₂}, P nodes pq → extractMin nodes pq = some (a, pq₁) →
      extractMin nodes pq₁ = some (b, pq₂) → P (nodes ++ [Node.join nodes a b]) (nodes.length :: pq₂))
    (fuel : Nat) (h : P nodes pq) (hfuel : pq.length ≤ fuel + 1) :
    ∃ pq', P (mergeLoop fuel nodes pq) pq' ∧ pq'.length ≤ 1 := by
  induction fuel generalizing nodes pq with
  | zero => exact ⟨pq, h, hfuel⟩
  | succ fuel ih =>
    unfold mergeLoop
    split
    · next hnone => exact ⟨pq, h, by simp [extractMin_eq_none_iff.mp hnone]⟩
    · next a pq₁ hsome =>
      have hpq := List.length_erase_add_one (extractMin_eq_some hsome).1
      rw [← (extractMin_eq_some hsome).2] at hpq
      split
      · next hnone => exact ⟨pq, h, by simp [← hpq, extractMin_eq_none_iff.mp hnone]⟩
      · next b pq₂ hsome₂ =>
        have hpq₁ := List.length_erase_add_one (extractMin_eq_some hsome₂).1
        rw [← (extractMin_eq_some hsome₂).2] at hpq₁
        exact ih (hmerge h hsome hsome₂) (by rw [List.length_cons]; omega)

/-! ### The weights -/

theorem weightAt_eq (nodes : List Node) (k : Nat) : weightAt nodes k = (nodeIn nodes k).weight.toNat := rfl

theorem weightAt_append_of_lt {k : Nat} (n : Node) (h : k < nodes.length) :
    weightAt (nodes ++ [n]) k = weightAt nodes k := by
  rw [weightAt_eq, nodeIn_append_of_lt n h, weightAt_eq]

/-- Every internal node weighs what its children weigh together (R153). -/
def ExactJoins (nodes : List Node) : Prop :=
  ∀ k, (nodeIn nodes k).kind = .internal →
    weightAt nodes k =
      weightAt nodes (nodeIn nodes k).left.toNat + weightAt nodes (nodeIn nodes k).right.toNat

/-- The forest of TB_BUILD with exact weights, those in the queue `total` together. -/
structure Weighed (total : Nat) (nodes : List Node) (pq : List Nat) : Prop where
  forest : Forest nodes pq
  fits : nodes.length + pq.length ≤ 512
  sum : (pq.map (weightAt nodes)).sum = total
  joins : ExactJoins nodes

theorem ExactJoins.merge (h : ExactJoins nodes) (hf : Forest nodes pq) (hlen : nodes.length ≤ 512) {a b : Nat}
    (ha : a < nodes.length) (hb : b < nodes.length) (hfit : weightAt nodes a + weightAt nodes b < 2 ^ 32) :
    ExactJoins (nodes ++ [Node.join nodes a b]) := by
  intro k hk
  have hlt : k < nodes.length + 1 := by
    simpa using lt_length_of_childIn (j := (nodeIn (nodes ++ [Node.join nodes a b]) k).left.toNat) ⟨hk, .inl rfl⟩
  rcases Nat.lt_succ_iff_lt_or_eq.mp hlt with hold | rfl
  · rw [nodeIn_append_of_lt _ hold] at hk ⊢
    have hchild : ∀ j, ChildIn nodes k j → j < nodes.length := fun j hj => ((hf.order k j hj).1).trans hold
    rw [weightAt_append_of_lt _ hold, weightAt_append_of_lt _ (hchild _ ⟨hk, .inl rfl⟩),
      weightAt_append_of_lt _ (hchild _ ⟨hk, .inr rfl⟩)]
    exact h k hk
  · have hleft : (Node.join nodes a b).left.toNat = b := Nat.mod_eq_of_lt (hb.trans_le hlen)
    have hright : (Node.join nodes a b).right.toNat = a := Nat.mod_eq_of_lt (ha.trans_le hlen)
    rw [weightAt_eq, nodeIn_append_length, hleft, hright, weightAt_append_of_lt _ ha, weightAt_append_of_lt _ hb,
      Nat.add_comm]
    exact Nat.mod_eq_of_lt hfit

/-- One merge (R153): the join weighs what it takes out of the queue. -/
theorem Weighed.merge {total a b : Nat} (h : Weighed total nodes pq) (htotal : total < 2 ^ 32) (ha : a ∈ pq)
    (hb : b ∈ pq.erase a) :
    Weighed total (nodes ++ [Node.join nodes a b]) (nodes.length :: (pq.erase a).erase b) := by
  have hsum := h.sum
  rw [← List.sum_map_erase _ ha, ← List.sum_map_erase _ hb] at hsum
  have hfits := h.fits
  have halt := h.forest.lt a ha
  have hblt := h.forest.lt b (List.mem_of_mem_erase hb)
  have hjoin : weightAt (nodes ++ [Node.join nodes a b]) nodes.length = weightAt nodes a + weightAt nodes b := by
    rw [weightAt_eq, nodeIn_append_length]
    exact Nat.mod_eq_of_lt (show _ < 2 ^ 32 by omega)
  have hrest : ((pq.erase a).erase b).map (weightAt (nodes ++ [Node.join nodes a b])) =
      ((pq.erase a).erase b).map (weightAt nodes) :=
    List.map_congr_left fun j hj =>
      weightAt_append_of_lt _ (h.forest.lt j (List.mem_of_mem_erase (List.mem_of_mem_erase hj)))
  refine ⟨h.forest.merge (by omega) ha hb, ?_, ?_, h.joins.merge h.forest (by omega) halt hblt (by omega)⟩
  · have hpq := List.length_erase_add_one ha
    have hpq₁ := List.length_erase_add_one hb
    simp only [List.length_append, List.length_cons, List.length_nil]
    omega
  · rw [List.map_cons, List.sum_cons, hjoin, hrest]
    omega

/-! ### The leaves -/

/-- R151: one leaf for each symbol with a count, in ascending order. -/
theorem leavesOf_eq_map (freq : Arr Word 256) :
    leavesOf freq = (allSymbols.filter fun x => readSym freq x ≠ 0).map fun x => Node.leafOf x (readSym freq x) := by
  rw [leavesOf, zip_toList, List.filter_map, List.map_map]
  rfl

theorem sum_map_filter_ne_zero {α : Type} (f : α → Word) (xs : List α) :
    ((xs.filter fun x => f x ≠ 0).map fun x => (f x).toNat).sum = (xs.map fun x => (f x).toNat).sum := by
  induction xs with
  | nil => rfl
  | cons x xs ih =>
    by_cases hx : f x = 0
    · rw [List.filter_cons_of_neg (by simpa using hx), ih, List.map_cons, List.sum_cons, hx]
      exact (Nat.zero_add _).symm
    · rw [List.filter_cons_of_pos (by simpa using hx), List.map_cons, List.sum_cons, ih, List.map_cons, List.sum_cons]

/-- The leaves weigh TOTAL together (R151). -/
theorem sum_weight_leavesOf (freq : Arr Word 256) :
    ((leavesOf freq).map fun n => n.weight.toNat).sum = sumOf freq := by
  rw [leavesOf_eq_map, List.map_map, sumOf_eq_sum_map]
  exact sum_map_filter_ne_zero (readSym freq) allSymbols

/-- The weights of all nodes by their indices. -/
theorem map_weightAt_range (nodes : List Node) :
    (List.range nodes.length).map (weightAt nodes) = nodes.map fun n => n.weight.toNat := by
  apply List.ext_getElem
  · simp
  · intro k hk _
    have hk : k < nodes.length := by simpa using hk
    simp [weightAt, hk]

theorem nodeIn_kind_of_leaves (h : ∀ n ∈ nodes, n.kind = .leaf) (k : Nat) : (nodeIn nodes k).kind = .leaf := by
  by_cases hk : k < nodes.length
  · rw [nodeIn, List.getElem?_eq_getElem hk]
    exact h _ (List.getElem_mem hk)
  · rw [nodeIn_of_length_le (Nat.le_of_not_lt hk)]
    rfl

theorem weighed_leaves (freq : Arr Word 256) :
    Weighed (sumOf freq) (leavesOf freq) (List.range (leavesOf freq).length) where
  forest := forest_leaves (leavesOf_kind freq)
  fits := by
    have := length_leavesOf_le freq
    rw [List.length_range]
    omega
  sum := by rw [map_weightAt_range, sum_weight_leavesOf]
  joins k hk := by
    rw [nodeIn_kind_of_leaves (leavesOf_kind freq)] at hk
    cases hk

/-! ### The tree of FREQ -/

/-- R134, R154: with counts that add up to less than 2^32, TB_BUILD ends with exact weights and at most one root. -/
theorem buildNodes_weighed {freq : Arr Word 256} (h : sumOf freq < 2 ^ 32) :
    ∃ pq, Weighed (sumOf freq) (buildNodes freq) pq ∧ pq.length ≤ 1 := by
  refine mergeLoop_induction (P := Weighed (sumOf freq)) (fun hw hsome hsome₂ => ?_) _ (weighed_leaves freq)
    (by rw [List.length_range]; exact Nat.le_succ _)
  obtain ⟨ha, rfl⟩ := extractMin_eq_some hsome
  obtain ⟨hb, rfl⟩ := extractMin_eq_some hsome₂
  exact hw.merge h ha hb

/-- The one root is the last node, so it weighs all there is. -/
theorem Weighed.weightAt_last {total : Nat} (h : Weighed total nodes pq) (hone : pq.length ≤ 1) (hne : nodes ≠ []) :
    weightAt nodes (nodes.length - 1) = total := by
  have hlast := h.forest.last hne
  obtain ⟨r, rfl⟩ := List.length_eq_one_iff.mp (Nat.le_antisymm hone (List.length_pos_of_mem hlast))
  rw [List.mem_singleton.mp hlast, ← h.sum]
  simp

/-- Settles O34: TOTAL has 32 bits, and the sum of the queue's weights is TOTAL from the leaves to the root. -/
theorem rootWeightIsTotal : Obligations.RootWeightIsTotal := by
  intro s t herr hs h hroot
  obtain rfl : { s with tree := buildTree s.fc.freq } = t := by
    rw [exec_tbBuild herr] at h
    injection h
  obtain ⟨pq, hw, hone⟩ := buildNodes_weighed (freq := s.fc.freq) (hs ▸ s.fc.total.isLt)
  simp only [buildTree_at, buildTree_root, ← weightAt_eq]
  exact ⟨BitVec.eq_of_toNat_eq ((hw.weightAt_last hone ((buildTree_rootValid_iff _).mp hroot)).trans hs.symm),
    fun k _ => hw.joins k⟩

end Sys2Proof.Proofs
end

section
/-! A stored FrequencyTable (R132, R158, R285): FC_SET puts the counts back one by one, and the tree and the table are those of
the counts, however they came about. -/

namespace Sys2Proof.Proofs

open Sys2Proof Sys2Proof.Machine Sys2Proof.Laws

variable {s t : State}

/-! ### The two ways to fill FREQ -/

/-- No error is recorded, no session is open and TOTAL is the sum of the counts: the commands that make a table run. -/
structure Ready (s : State) : Prop where
  noError : s.errcause = .noError
  idle : s.sessionActive = false
  counts : s.CountsAgree

/-- FC_CLEAR as the host issues it (R130). -/
theorem runCommand_fcClear (herr : s.errcause = .noError) :
    runCommand .fcClear s =
      { s with busy := false, fc := { freq := Arr.replicate 256 0, total := 0 },
               tree := { s.tree with treeValid := false } } :=
  runCommand_of_exec (exec_fcClear (s := { s with busy := true }) herr)

theorem ready_fcClear (herr : s.errcause = .noError) (hidle : s.sessionActive = false) :
    Ready (runCommand .fcClear s) := by
  rw [runCommand_fcClear herr]
  exact ⟨herr, hidle, sumOf_replicate_zero.symm⟩

/-- COUNT (R102) of an input that TOTAL has room for. -/
theorem Ready.performAll_countActions (h : Ready s) {xs : List Symbol} (hroom : s.fc.total.toNat + xs.length ≤ maxTotal) :
    Ready (performAll (countActions xs) s) := by
  induction xs generalizing s with
  | nil => exact h
  | cons x xs ih =>
    rw [List.length_cons] at hroom
    have hlt : s.fc.total.toNat < maxTotal := by omega
    change Ready (performAll (countActions xs) (runCommand (.fcCount x) s))
    rw [runCommand_of_exec (exec_fcCount (s := { s with busy := true }) h.noError hlt.ne)]
    refine ih ⟨h.noError, h.idle, countsAgree_fcCount h.counts x hlt.ne⟩ ?_
    show (s.fc.total + 1).toNat + xs.length ≤ maxTotal
    rw [toNat_add_one hlt]
    omega

/-- The host's writes for one symbol of a stored table (R285). -/
def setCount (freq : Arr Word 256) (x : Symbol) : List HostAction := [setArg (readSym freq x), command (.fcSet x)]

/-- The counts of `freq` are being put back: each is there already, or it is 0 and its symbol still to come. -/
structure Restoring (freq : Arr Word 256) (todo : List Symbol) (s : State) : Prop extends Ready s where
  restored : ∀ y, s.freqOf y = readSym freq y ∨ s.freqOf y = 0 ∧ y ∈ todo

variable {freq : Arr Word 256}

/-- R132: no count passes that of the stored table on the way, so neither does the sum. -/
theorem Restoring.performAll_setCount {x : Symbol} {todo : List Symbol} (h : Restoring freq (x :: todo) s)
    (hfits : sumOf freq ≤ maxTotal) : Restoring freq todo (performAll (setCount freq x) s) := by
  have hnew : ∀ y, readSym (writeSym s.fc.freq x (readSym freq x)) y = readSym freq y ∨
      readSym (writeSym s.fc.freq x (readSym freq x)) y = 0 ∧ y ∈ todo := by
    intro y
    by_cases hy : y = x
    · exact .inl (by rw [hy, readSym_writeSym_same])
    · rw [readSym_writeSym_ne _ _ hy]
      exact (h.restored y).imp_right fun ⟨h0, hmem⟩ => ⟨h0, List.mem_of_ne_of_mem hy hmem⟩
  have hroom : sumOf (writeSym s.fc.freq x (readSym freq x)) ≤ maxTotal := by
    refine (sumOf_le_sumOf fun y => ?_).trans hfits
    rcases hnew y with he | ⟨h0, -⟩
    · rw [he]
    · rw [h0]
      exact Nat.zero_le _
  change Restoring freq todo (runCommand (.fcSet x) { s with arg := readSym freq x })
  rw [runCommand_of_exec
    (exec_fcSet (s := { s with arg := readSym freq x, busy := true }) h.noError h.counts hroom)]
  exact { noError := h.noError, idle := h.idle, counts := countsAgree_setFreq_sumOf hroom, restored := hnew }

theorem Restoring.performAll_setCounts {todo : List Symbol} (h : Restoring freq todo s) (hfits : sumOf freq ≤ maxTotal) :
    Restoring freq [] (performAll (todo.flatMap (setCount freq)) s) := by
  induction todo generalizing s with
  | nil => exact h
  | cons x todo ih =>
    rw [List.flatMap_cons, performAll_append]
    exact ih (h.performAll_setCount hfits)

/-- After FC_CLEAR the symbols of the stored table are still to come. -/
theorem restoring_fcClear (herr : s.errcause = .noError) (hidle : s.sessionActive = false) (freq : Arr Word 256) :
    Restoring freq (presentSymbols freq) (runCommand .fcClear s) := by
  refine { ready_fcClear herr hidle with restored := fun y => ?_ }
  have hzero : (runCommand .fcClear s).freqOf y = 0 := by
    rw [runCommand_fcClear herr]
    exact readSym_replicate 0 y
  by_cases hy : readSym freq y = 0
  · exact .inl (hzero.trans hy.symm)
  · exact .inr ⟨hzero, (mem_presentSymbols_iff freq y).mpr hy⟩

/-- R41: the counts determine FREQ and TOTAL. -/
theorem fc_eq_of_freqOf_eq (hs : s.CountsAgree) (ht : t.CountsAgree) (h : ∀ y, s.freqOf y = t.freqOf y) :
    s.fc = t.fc := by
  have hfreq : s.fc.freq = t.fc.freq := arr_ext_readSym h
  have htotal : s.fc.total = t.fc.total := BitVec.eq_of_toNat_eq (by rw [hs, ht, hfreq])
  exact (FreqCounter.mk.injEq ..).mpr ⟨hfreq, htotal⟩

/-! ### From FREQ to the table -/

theorem exec_caAssign (herr : s.errcause = .noError) (hidle : s.sessionActive = false)
    (hvalid : s.tree.treeValid = true) : exec .caAssign s = .next { s with table := s.tree.codes }.validateTable :=
  (gated_of_noError herr _ : execCaAssign s = _).trans ((guarded_of_idle hidle _).trans (if_pos hvalid))

/-- The state after TB_BUILD and CA_ASSIGN as the host issues them. -/
theorem Ready.performAll_assign (h : Ready s) :
    performAll [command .tbBuild, command .caAssign] s =
      { { s with busy := true, tree := buildTree s.fc.freq, table := (buildTree s.fc.freq).codes }.validateTable with
        busy := false } := by
  change runCommand .caAssign (runCommand .tbBuild s) = _
  rw [runCommand_of_exec (exec_tbBuild (s := { s with busy := true }) h.noError)]
  exact runCommand_of_exec (exec_caAssign (s := { s with busy := true, tree := buildTree s.fc.freq }) h.noError h.idle rfl)

/-- R158, R170: FREQ and TOTAL stay, and they determine the tree, the table and TABLE_VALID. -/
theorem performAll_assign_of_fc_eq (hs : Ready s) (ht : Ready t) (h : s.fc = t.fc) :
    let s' := performAll [command .tbBuild, command .caAssign] s
    let t' := performAll [command .tbBuild, command .caAssign] t
    s'.table = t'.table ∧ s'.tableValid = t'.tableValid ∧ s'.fc = t'.fc ∧ s'.tree = t'.tree := by
  simp [hs.performAll_assign, ht.performAll_assign, h]

/-! ### The two programs -/

/-- R284: building a table from an input is counting it, then TB_BUILD and CA_ASSIGN. -/
theorem performAll_buildTable (herr : s.errcause = .noError) (hidle : s.sessionActive = false) {xs : List Symbol}
    (hlen : xs.length ≤ maxTotal) :
    ∃ c, Ready c ∧ performAll (buildTable xs) s = performAll [command .tbBuild, command .caAssign] c := by
  have hclear : (runCommand .fcClear s).fc.total = 0 := by rw [runCommand_fcClear herr]
  exact ⟨_, (ready_fcClear herr hidle).performAll_countActions (by rw [hclear]; simpa using hlen), performAll_append _ _ _⟩

/-- R285: re-deriving a table from stored counts is putting them back, then TB_BUILD and CA_ASSIGN. -/
theorem performAll_rebuildTable (herr : s.errcause = .noError) (hidle : s.sessionActive = false)
    (hfits : sumOf freq ≤ maxTotal) :
    ∃ c, Ready c ∧ (∀ y, c.freqOf y = readSym freq y) ∧
      performAll (rebuildTable ((presentSymbols freq).map fun x => (x, readSym freq x))) s =
        performAll [command .tbBuild, command .caAssign] c := by
  have hrestored := (restoring_fcClear herr hidle freq).performAll_setCounts hfits
  refine ⟨_, hrestored.toReady, fun y => (hrestored.restored y).resolve_right (by simp), ?_⟩
  rw [rebuildTable, List.flatMap_map]
  exact performAll_append _ _ _

/-- Settles O58: both programs reach TB_BUILD with the same counts, which they leave as they are. -/
theorem rederivedTableIsTheSame : Obligations.RederivedTableIsTheSame := by
  intro s xs herr hidle hlen t u
  obtain ⟨c, hc, ht⟩ := performAll_buildTable herr hidle hlen
  have hfc : t.fc = c.fc := by simp [t, ht, hc.performAll_assign]
  have hagree : t.CountsAgree := by rw [State.CountsAgree, hfc, hc.counts]
  obtain ⟨d, hd, hfreq, hu⟩ := performAll_rebuildTable herr hidle (hagree ▸ Nat.le_pred_of_lt t.fc.total.isLt)
  have hdc : d.fc = c.fc := (fc_eq_of_freqOf_eq hd.counts hagree hfreq).trans hfc
  change u = _ at hu
  change t = _ at ht
  rw [hu, ht]
  exact performAll_assign_of_fc_eq hd hc hdc

end Sys2Proof.Proofs
end

section
/-! The merges of TB_BUILD in the order it makes them (R150 to R155): the leaves stay where they were allocated, and every node
past them joins the two least keys of the queue of its time, which holds the roots of the nodes written before it. -/

namespace Sys2Proof.Proofs

open Sys2Proof Sys2Proof.Machine Sys2Proof.Laws

variable {nodes leaves : List Node} {pq : List Nat}

/-! ### The least key -/

theorem keyLt_iff (nodes : List Node) (i j : Nat) : keyLt nodes i j = true ↔
    weightAt nodes i < weightAt nodes j ∨ weightAt nodes i = weightAt nodes j ∧ i < j := by
  simp [keyLt]

theorem not_keyLt_trans {i j k : Nat} (hij : ¬ keyLt nodes i j = true) (hjk : ¬ keyLt nodes j k = true) :
    ¬ keyLt nodes i k = true := by
  simp only [keyLt_iff] at *
  omega

/-- No key is below the least one (R152). -/
theorem not_keyLt_minKey {i j : Nat} {q : List Nat} (h : j ∈ i :: q) : ¬ keyLt nodes j (minKey nodes i q) = true := by
  induction q generalizing i j with
  | nil =>
    rw [List.mem_singleton.mp h, minKey, keyLt_iff]
    omega
  | cons k rest ih =>
    rw [minKey]
    -- The smaller of `i` and `k` goes on, so a key below the least one would be below it too.
    have hsmaller : ¬ keyLt nodes i (if keyLt nodes k i then k else i) = true ∧
        ¬ keyLt nodes k (if keyLt nodes k i then k else i) = true := by
      split <;> simp only [keyLt_iff] at * <;> omega
    have hfirst := ih (i := if keyLt nodes k i then k else i) List.mem_cons_self
    rcases List.mem_cons.mp h with rfl | h
    · exact not_keyLt_trans hsmaller.1 hfirst
    rcases List.mem_cons.mp h with rfl | h
    · exact not_keyLt_trans hsmaller.2 hfirst
    · exact ih (.tail _ h)

/-- ExtractMin takes the least key: indices are unique, so every other key is above it (R152). -/
theorem extractMin_least {a j : Nat} {rest : List Nat} (h : extractMin nodes pq = some (a, rest)) (hj : j ∈ pq)
    (hne : j ≠ a) : keyLt nodes a j = true := by
  cases pq with
  | nil => cases hj
  | cons i q =>
    injection h with h
    injection h with ha _
    have hnot := not_keyLt_minKey (nodes := nodes) hj
    rw [ha, keyLt_iff] at hnot
    rw [keyLt_iff]
    omega

/-! ### The nodes written before a node -/

theorem nodeIn_take_of_lt {m k : Nat} (h : k < m) : nodeIn (nodes.take m) k = nodeIn nodes k := by
  simp [nodeIn, h]

theorem weightAt_take_of_lt {m k : Nat} (h : k < m) : weightAt (nodes.take m) k = weightAt nodes k := by
  rw [weightAt_eq, nodeIn_take_of_lt h, weightAt_eq]

theorem keyLt_take_of_lt {m i j : Nat} (hi : i < m) (hj : j < m) : keyLt (nodes.take m) i j = keyLt nodes i j := by
  simp only [keyLt, weightAt_take_of_lt hi, weightAt_take_of_lt hj]

theorem childIn_take_iff {m k j : Nat} : ChildIn (nodes.take m) k j ↔ k < m ∧ ChildIn nodes k j := by
  by_cases hk : k < m
  · simp [ChildIn, nodeIn_take_of_lt hk, hk]
  · refine iff_of_false (fun h => ?_) fun h => hk h.1
    have := lt_length_of_childIn h
    rw [List.length_take] at this
    omega

/-- The queue of a forest holds the nodes that are no node's child. -/
theorem Forest.mem_iff (hf : Forest nodes pq) {j : Nat} : j ∈ pq ↔ j < nodes.length ∧ ∀ k, ¬ ChildIn nodes k j := by
  refine ⟨fun hj => ⟨hf.lt j hj, hf.orphan j hj⟩, fun ⟨hlt, horphan⟩ => ?_⟩
  by_contra hj
  obtain ⟨k, hk, -⟩ := hf.parent j hlt hj
  exact horphan k hk

/-! ### The merges -/

/-- Node n joins the first two nodes extracted from the queue of the nodes written before it (R152, R153). -/
def JoinsLeast (before : List Node) (n : Node) : Prop :=
  ∃ pq a pq₁ b pq₂, Forest before pq ∧ extractMin before pq = some (a, pq₁) ∧ extractMin before pq₁ = some (b, pq₂) ∧
    n = Node.join before a b

/-- What TB_BUILD has written at any time: the leaves, then nodes that each joined the least keys of their time. -/
structure Built (leaves nodes : List Node) (pq : List Nat) : Prop where
  forest : Forest nodes pq
  fits : nodes.length + pq.length ≤ 512
  leavesFirst : leaves <+: nodes
  joins : ∀ m, leaves.length ≤ m → m < nodes.length → JoinsLeast (nodes.take m) (nodeIn nodes m)

theorem Built.merge {a b : Nat} {pq₁ pq₂ : List Nat} (h : Built leaves nodes pq)
    (hsome : extractMin nodes pq = some (a, pq₁)) (hsome₂ : extractMin nodes pq₁ = some (b, pq₂)) :
    Built leaves (nodes ++ [Node.join nodes a b]) (nodes.length :: pq₂) := by
  have hnew : JoinsLeast nodes (Node.join nodes a b) := ⟨pq, a, pq₁, b, pq₂, h.forest, hsome, hsome₂, rfl⟩
  have hfits := h.fits
  obtain ⟨ha, rfl⟩ := extractMin_eq_some hsome
  obtain ⟨hb, rfl⟩ := extractMin_eq_some hsome₂
  have hpq := List.length_erase_add_one ha
  have hpq₁ := List.length_erase_add_one hb
  constructor
  case forest => exact h.forest.merge (by omega) ha hb
  case fits =>
    simp only [List.length_append, List.length_cons, List.length_nil]
    omega
  case leavesFirst => exact h.leavesFirst.trans (List.prefix_append ..)
  case joins =>
    intro m hleaves hm
    rw [List.length_append, List.length_singleton] at hm
    rcases Nat.lt_succ_iff_lt_or_eq.mp hm with hold | rfl
    · rw [nodeIn_append_of_lt _ hold, List.take_append_of_le_length hold.le]
      exact h.joins m hleaves hold
    · rwa [nodeIn_append_length, List.take_left]

theorem buildNodes_built (freq : Arr Word 256) : ∃ pq, Built (leavesOf freq) (buildNodes freq) pq ∧ pq.length ≤ 1 := by
  have hn := length_leavesOf_le freq
  refine mergeLoop_induction (P := Built (leavesOf freq)) (fun h => h.merge) _ ?_
    (by rw [List.length_range]; exact Nat.le_succ _)
  exact { forest := forest_leaves (leavesOf_kind freq), fits := by rw [List.length_range]; omega,
          leavesFirst := List.prefix_rfl, joins := fun m hge hlt => absurd hlt (Nat.not_lt.mpr hge) }

/-! ### The leaves -/

theorem presentSymbols_eq_filter (freq : Arr Word 256) :
    presentSymbols freq = allSymbols.filter fun x => readSym freq x ≠ 0 := by
  rw [presentSymbols, zip_toList, List.filter_map, List.map_map]
  exact List.map_id _

theorem leavesOf_eq_map_presentSymbols (freq : Arr Word 256) :
    leavesOf freq = (presentSymbols freq).map fun x => Node.leafOf x (readSym freq x) := by
  rw [leavesOf_eq_map, presentSymbols_eq_filter]

@[simp] theorem length_leavesOf (freq : Arr Word 256) : (leavesOf freq).length = leafCount freq := by
  rw [leavesOf_eq_map_presentSymbols, List.length_map, leafCount]

/-- R151: the leaves stand at the indices of their symbols among those that occur. -/
theorem nodeIn_buildNodes_leaf {freq : Arr Word 256} {k : Nat} {x : Symbol} (h : (presentSymbols freq)[k]? = some x) :
    nodeIn (buildNodes freq) k = Node.leafOf x (readSym freq x) := by
  obtain ⟨_, hbuilt, -⟩ := buildNodes_built freq
  have hleaf : (leavesOf freq)[k]? = some (Node.leafOf x (readSym freq x)) := by
    rw [leavesOf_eq_map_presentSymbols, List.getElem?_map, h, Option.map_some]
  have hk : k < (leavesOf freq).length := (List.getElem?_eq_some_iff.mp hleaf).1
  obtain ⟨joins, hjoins⟩ := hbuilt.leavesFirst
  rw [nodeIn, ← hjoins, List.getElem?_append_left hk, hleaf, Option.getD_some]

theorem buildNodes_ne_nil {freq : Arr Word 256} (h : 1 ≤ leafCount freq) : buildNodes freq ≠ [] := by
  obtain ⟨_, hbuilt, -⟩ := buildNodes_built freq
  have hle := hbuilt.leavesFirst.length_le
  rw [length_leavesOf] at hle
  exact List.ne_nil_of_length_pos (h.trans hle)

/-- R155: no leaves, no nodes. -/
theorem buildNodes_eq_nil {freq : Arr Word 256} (h : leafCount freq = 0) : buildNodes freq = [] := by
  obtain ⟨_, -, -, hcount⟩ := buildNodes_forest freq
  rw [length_leavesOf, h] at hcount
  exact List.length_eq_zero_iff.mp (by omega)

/-- R154: n leaves and n − 1 joins. -/
theorem length_buildNodes {freq : Arr Word 256} (h : 1 ≤ leafCount freq) :
    (buildNodes freq).length = 2 * leafCount freq - 1 := by
  obtain ⟨pq, hf, hone, hcount⟩ := buildNodes_forest freq
  have hpos := List.length_pos_of_mem (hf.last (buildNodes_ne_nil h))
  rw [length_leavesOf] at hcount
  omega

/-- Settles O31: the leaves are the first nodes written, and the forest's one root fixes their number. -/
theorem tbBuildAllocatesLeaves : Obligations.TbBuildAllocatesLeaves := by
  intro s herr
  refine ⟨_, exec_tbBuild herr, rfl, rfl, fun k x hx => ?_, fun h0 => ?_, fun h1 => ?_, fun k hk => ?_⟩
  · exact (buildTree_at _ _).trans (nodeIn_buildNodes_leaf hx)
  · simp [buildTree, buildNodes_eq_nil h0]
  · rw [buildTree_nodeCount, buildTree_root, length_buildNodes h1]
    exact ⟨rfl, rfl, (buildTree_rootValid_iff _).mpr (buildNodes_ne_nil h1)⟩
  · rw [buildTree_nodeCount] at hk
    exact (buildTree_at _ _).trans (nodeIn_of_length_le hk)

/-! ### The joins -/

theorem toNat_join_left (nodes : List Node) (a : Nat) {b : Nat} (hb : b < 512) : (Node.join nodes a b).left.toNat = b :=
  Nat.mod_eq_of_lt hb

theorem toNat_join_right (nodes : List Node) {a : Nat} (b : Nat) (ha : a < 512) :
    (Node.join nodes a b).right.toNat = a :=
  Nat.mod_eq_of_lt ha

theorem join_weight (nodes : List Node) (a b : Nat) :
    (Node.join nodes a b).weight = (nodeIn nodes a).weight + (nodeIn nodes b).weight := by
  simp [Node.join, weightAt_eq, BitVec.ofNat_add]

theorem buildTree_keyBelow_iff (freq : Arr Word 256) (i j : Nat) :
    (buildTree freq).KeyBelow i j ↔ keyLt (buildNodes freq) i j = true := by
  simp only [TreeBuilder.KeyBelow, buildTree_at, keyLt_iff, weightAt_eq, BitVec.toNat_inj]

/-- The queue from which node m was extracted holds the nodes that wait when it is created. -/
theorem buildTree_waiting_iff {freq : Arr Word 256} {m : Nat} (hm : m < (buildNodes freq).length)
    (hf : Forest ((buildNodes freq).take m) pq) (j : Nat) : (buildTree freq).Waiting m j ↔ j ∈ pq := by
  simp only [TreeBuilder.Waiting, buildTree_isChild_iff, hf.mem_iff, childIn_take_iff, List.length_take,
    Nat.min_eq_left hm.le, not_and]

/-- Settles O32: node m was made of the first two nodes extracted from the queue of the nodes before it. -/
theorem tbBuildMergesLeastKeys : Obligations.TbBuildMergesLeastKeys := by
  intro s t herr h m hleaves hm
  obtain rfl : { s with tree := buildTree s.fc.freq } = t := by
    rw [exec_tbBuild herr] at h
    injection h
  obtain ⟨_, hbuilt, -⟩ := buildNodes_built s.fc.freq
  rw [buildTree_nodeCount] at hm
  obtain ⟨pq, a, pq₁, b, pq₂, hf, hsome, hsome₂, hjoin⟩ := hbuilt.joins m (by rwa [length_leavesOf]) hm
  obtain ⟨ha, hpq₁⟩ := extractMin_eq_some hsome
  obtain ⟨hb, -⟩ := extractMin_eq_some hsome₂
  have hmem : ∀ {j}, j ∈ pq₁ ↔ j ≠ a ∧ j ∈ pq := hpq₁ ▸ hf.nodup.mem_erase_iff
  obtain ⟨hba, hbq⟩ := hmem.mp hb
  have hlt : ∀ j ∈ pq, j < m := fun j hj => by
    have := hf.lt j hj
    rw [List.length_take] at this
    omega
  have ham := hlt a ha
  have hbm := hlt b hbq
  have hfits := length_buildNodes_le s.fc.freq
  unfold nodeMax at hfits
  simp only [buildTree_at, buildTree_waiting_iff hm hf, buildTree_keyBelow_iff, hjoin, join_weight,
    toNat_join_left _ a (show b < 512 by omega), toNat_join_right _ b (show a < 512 by omega), nodeIn_take_of_lt ham,
    nodeIn_take_of_lt hbm]
  refine ⟨rfl, rfl, trivial, ha, hbq, ?_, fun j hj hja hjb => ?_⟩
  · rw [← keyLt_take_of_lt ham hbm]
    exact extractMin_least hsome hbq hba
  · rw [← keyLt_take_of_lt hbm (hlt j hj)]
    exact extractMin_least hsome₂ (hmem.mpr ⟨hja, hj⟩) hjb

end Sys2Proof.Proofs
end

section
/-! The validity check of a code table (R177) over bit strings. -/

namespace Sys2Proof.Proofs

open Sys2Proof Sys2Proof.Machine Sys2Proof.Laws

/-- R177: the test of two entries says whether the first one's code begins the second one's. -/
theorem isPrefixOf_iff (a b : CodeEntry) : a.isPrefixOf b = true ↔ a.code <+: b.code := by
  rw [CodeEntry.isPrefixOf, Bool.and_eq_true, decide_eq_true_eq, beq_iff_eq, lowBits_eq_iff]
  constructor
  · rintro ⟨hle, hbits⟩
    refine List.prefix_iff_getElem?.mpr fun k hk => ?_
    rw [length_code] at hk
    simp [CodeEntry.code, hk.trans_le hle, hbits k hk]
  · intro h
    have hle := h.length_le
    rw [length_code, length_code] at hle
    refine ⟨hle, fun k hk => ?_⟩
    simpa [CodeEntry.code] using h.getElem (i := k) (by rwa [length_code])

theorem mem_entries_iff (t : CodeTable) (x : Symbol) (e : CodeEntry) :
    (x, e) ∈ t.entries ↔ e = readSym t x ∧ t.codeOf x ≠ [] := by
  rw [CodeTable.entries, zip_toList, CodeTable.codeOf, ne_eq, code_eq_nil_iff]
  simp only [List.mem_filter, List.mem_map, mem_allSymbols, true_and, Prod.mk.injEq, decide_eq_true_eq]
  constructor
  · rintro ⟨⟨y, rfl, rfl⟩, hlen⟩
    exact ⟨rfl, hlen⟩
  · rintro ⟨rfl, hlen⟩
    exact ⟨⟨x, rfl, rfl⟩, hlen⟩

/-- A table in which no code begins another one passes the check (R177). -/
theorem valid_of_prefixFree {t : CodeTable} (h : t.PrefixFree) : t.valid = true := by
  simp only [CodeTable.valid, List.all_eq_true, Bool.or_eq_true, beq_iff_eq, Bool.not_eq_true', Prod.forall]
  intro x e hx y f hy
  obtain ⟨rfl, hcode⟩ := (mem_entries_iff t x e).mp hx
  obtain ⟨rfl, hcode'⟩ := (mem_entries_iff t y f).mp hy
  refine or_iff_not_imp_left.mpr fun hne => ?_
  rw [← Bool.not_eq_true, isPrefixOf_iff]
  exact h x y hne hcode hcode'

end Sys2Proof.Proofs
end

section
/-! The codes of the built tree (R158, R170 to R172).  A tree's leaves are listed with the branch bits that lead to them; the
merges keep the symbols of all leaves, so in the end the root has one leaf for each symbol that occurs, and CA_ASSIGN gives it
its branch bits. -/

namespace Sys2Proof.Proofs

open Sys2Proof Sys2Proof.Machine Sys2Proof.Laws

/-! ### The leaves under a node -/

/-- The leaves of a tree whose two sides have the given leaves: 0 leads LEFT and 1 leads RIGHT (R171). -/
def branchPaths (left right : List (List Bool × Symbol)) : List (List Bool × Symbol) :=
  left.map (fun p => (false :: p.1, p.2)) ++ right.map (fun p => (true :: p.1, p.2))

/-- The leaves under node j of the nodes written so far: the branch bits from j down to each and its symbol. -/
inductive LeafPaths (nodes : List Node) : Nat → List (List Bool × Symbol) → Prop
  | leaf {j : Nat} : (nodeIn nodes j).kind = .leaf → LeafPaths nodes j [([], (nodeIn nodes j).symbol)]
  | internal {j : Nat} {left right : List (List Bool × Symbol)} : (nodeIn nodes j).kind = .internal →
      LeafPaths nodes (nodeIn nodes j).left.toNat left → LeafPaths nodes (nodeIn nodes j).right.toNat right →
      LeafPaths nodes j (branchPaths left right)

variable {nodes : List Node} {pq : List Nat} {j : Nat} {paths left right : List (List Bool × Symbol)}
  {freq : Arr Word 256}

@[simp] theorem length_branchPaths (left right : List (List Bool × Symbol)) :
    (branchPaths left right).length = left.length + right.length := by
  simp [branchPaths]

@[simp] theorem map_snd_branchPaths (left right : List (List Bool × Symbol)) :
    (branchPaths left right).map Prod.snd = left.map Prod.snd ++ right.map Prod.snd := by
  simp [branchPaths, Function.comp_def]

theorem mem_branchPaths_iff {p : List Bool} {x : Symbol} : (p, x) ∈ branchPaths left right ↔
    (∃ q, p = false :: q ∧ (q, x) ∈ left) ∨ ∃ q, p = true :: q ∧ (q, x) ∈ right := by
  simp [branchPaths, eq_comm, and_comm]

theorem LeafPaths.length_pos (h : LeafPaths nodes j paths) : 0 < paths.length := by
  induction h with
  | leaf _ => exact Nat.one_pos
  | internal _ _ _ hleft _ =>
    rw [length_branchPaths]
    exact Nat.add_pos_left hleft _

/-- No leaf lies on the way to another one (R182). -/
theorem LeafPaths.eq_of_prefix (h : LeafPaths nodes j paths) {p q : List Bool} {x y : Symbol} (hp : (p, x) ∈ paths)
    (hq : (q, y) ∈ paths) (hpq : p <+: q) : x = y := by
  induction h generalizing p q with
  | leaf _ =>
    rw [List.mem_singleton, Prod.mk.injEq] at hp hq
    rw [hp.2, hq.2]
  | internal _ _ _ hleft hright =>
    rcases mem_branchPaths_iff.mp hp with ⟨p', rfl, hp'⟩ | ⟨p', rfl, hp'⟩ <;>
      rcases mem_branchPaths_iff.mp hq with ⟨q', rfl, hq'⟩ | ⟨q', rfl, hq'⟩ <;>
      obtain ⟨hbit, hpq'⟩ := List.cons_prefix_cons.mp hpq
    · exact hleft hp' hq' hpq'
    · cases hbit
    · cases hbit
    · exact hright hp' hq' hpq'

/-- A node that is a leaf is the only leaf under it. -/
theorem LeafPaths.eq_of_leaf (h : LeafPaths nodes j paths) (hkind : (nodeIn nodes j).kind = .leaf) :
    paths = [([], (nodeIn nodes j).symbol)] := by
  cases h with
  | leaf _ => rfl
  | internal hinternal _ _ => rw [hkind] at hinternal; cases hinternal

/-- A branch leads to every leaf under an internal node. -/
theorem LeafPaths.ne_nil_of_internal (h : LeafPaths nodes j paths) (hkind : (nodeIn nodes j).kind = .internal)
    {p : List Bool} {x : Symbol} (hp : (p, x) ∈ paths) : p ≠ [] := by
  cases h with
  | leaf hleaf => rw [hkind] at hleaf; cases hleaf
  | internal _ _ _ =>
    rcases mem_branchPaths_iff.mp hp with ⟨q, rfl, -⟩ | ⟨q, rfl, -⟩ <;> simp

/-- A new node changes nothing under the nodes before it. -/
theorem LeafPaths.append (h : LeafPaths nodes j paths) (hf : Forest nodes pq) (hj : j < nodes.length) (n : Node) :
    LeafPaths (nodes ++ [n]) j paths := by
  induction h with
  | leaf hkind =>
    rw [← nodeIn_append_of_lt n hj] at hkind ⊢
    exact .leaf hkind
  | internal hkind _ _ hleft hright =>
    have hl := (hf.order _ _ ⟨hkind, .inl rfl⟩).1.trans hj
    have hr := (hf.order _ _ ⟨hkind, .inr rfl⟩).1.trans hj
    refine .internal ?_ ?_ ?_ <;> rw [nodeIn_append_of_lt n hj]
    · exact hkind
    · exact hleft hl
    · exact hright hr

/-- The leaves under a join are those under its two nodes (R153). -/
theorem LeafPaths.join {a b : Nat} (hleft : LeafPaths nodes b left) (hright : LeafPaths nodes a right)
    (hf : Forest nodes pq) (hlen : nodes.length ≤ 512) (ha : a < nodes.length) (hb : b < nodes.length) :
    LeafPaths (nodes ++ [Node.join nodes a b]) nodes.length (branchPaths left right) := by
  refine .internal ?_ ?_ ?_ <;> rw [nodeIn_append_length]
  · rfl
  · rw [toNat_join_left _ _ (hb.trans_le hlen)]
    exact hleft.append hf hb _
  · rw [toNat_join_right _ _ (ha.trans_le hlen)]
    exact hright.append hf ha _

/-! ### The symbols of the queue's trees -/

/-- The forest of TB_BUILD whose trees have the symbols `xs` at their leaves, each once. -/
structure Labelled (xs : List Symbol) (nodes : List Node) (pq : List Nat) : Prop where
  forest : Forest nodes pq
  fits : nodes.length + pq.length ≤ 512
  trees : ∃ paths : Nat → List (List Bool × Symbol), (∀ j ∈ pq, LeafPaths nodes j (paths j)) ∧
    (pq.flatMap fun j => (paths j).map Prod.snd).Perm xs

/-- R151: the leaves carry the symbols that occur. -/
theorem map_symbol_leavesOf (freq : Arr Word 256) : (leavesOf freq).map (·.symbol) = presentSymbols freq := by
  rw [leavesOf_eq_map_presentSymbols, List.map_map]
  exact List.map_id _

theorem map_nodeIn_range (nodes : List Node) : (List.range nodes.length).map (nodeIn nodes) = nodes := by
  apply List.ext_getElem
  · simp
  · intro k hk _
    have hk : k < nodes.length := by simpa using hk
    simp [nodeIn, hk]

theorem labelled_leaves (freq : Arr Word 256) :
    Labelled (presentSymbols freq) (leavesOf freq) (List.range (leavesOf freq).length) where
  forest := forest_leaves (leavesOf_kind freq)
  fits := by
    have := length_leavesOf_le freq
    rw [List.length_range]
    omega
  trees := by
    refine ⟨_, fun j _ => .leaf (nodeIn_kind_of_leaves (leavesOf_kind freq) j), .of_eq ?_⟩
    have hsymbols := congrArg (List.map (·.symbol)) (map_nodeIn_range (leavesOf freq))
    rw [List.map_map, map_symbol_leavesOf] at hsymbols
    exact List.map_eq_flatMap.symm.trans hsymbols

theorem Labelled.merge {xs : List Symbol} {a b : Nat} (h : Labelled xs nodes pq) (ha : a ∈ pq) (hb : b ∈ pq.erase a) :
    Labelled xs (nodes ++ [Node.join nodes a b]) (nodes.length :: (pq.erase a).erase b) := by
  have hf := h.forest
  have hfits := h.fits
  have halt := hf.lt a ha
  have hblt := hf.lt b (List.mem_of_mem_erase hb)
  have hpq := List.length_erase_add_one ha
  have hpq₁ := List.length_erase_add_one hb
  obtain ⟨paths, hpaths, hperm⟩ := h.trees
  have hrest : ∀ j ∈ (pq.erase a).erase b, j ∈ pq := fun j hj => List.mem_of_mem_erase (List.mem_of_mem_erase hj)
  have hold : ∀ joined, ∀ j ∈ (pq.erase a).erase b, Function.update paths nodes.length joined j = paths j :=
    fun joined j hj => Function.update_of_ne (hf.lt j (hrest j hj)).ne _ _
  constructor
  case forest => exact hf.merge (by omega) ha hb
  case fits =>
    simp only [List.length_append, List.length_cons, List.length_nil]
    omega
  case trees =>
    refine ⟨Function.update paths nodes.length (branchPaths (paths b) (paths a)), fun j hj => ?_, ?_⟩
    · rcases List.mem_cons.mp hj with rfl | hj
      · rw [Function.update_self]
        exact (hpaths b (List.mem_of_mem_erase hb)).join (hpaths a ha) hf (by omega) halt hblt
      · rw [hold _ j hj]
        exact (hpaths j (hrest j hj)).append hf (hf.lt j (hrest j hj)) _
    · have hpq : pq.Perm (a :: b :: (pq.erase a).erase b) :=
        (List.perm_cons_erase ha).trans ((List.perm_cons_erase hb).cons a)
      refine List.Perm.trans ?_ ((hpq.flatMap_right _).symm.trans hperm)
      rw [List.flatMap_cons, List.flatMap_congr fun j hj => congrArg (List.map Prod.snd) (hold _ j hj),
        Function.update_self, map_snd_branchPaths, List.flatMap_cons, List.flatMap_cons, ← List.append_assoc]
      exact List.perm_append_comm.append_right _

theorem buildNodes_labelled (freq : Arr Word 256) :
    ∃ pq, Labelled (presentSymbols freq) (buildNodes freq) pq ∧ pq.length ≤ 1 := by
  refine mergeLoop_induction (P := Labelled (presentSymbols freq)) (fun h hsome hsome₂ => ?_) _ (labelled_leaves freq)
    (by rw [List.length_range]; exact Nat.le_succ _)
  obtain ⟨ha, rfl⟩ := extractMin_eq_some hsome
  obtain ⟨hb, rfl⟩ := extractMin_eq_some hsome₂
  exact h.merge ha hb

/-- R158: under the root of the built tree each symbol that occurs has one leaf. -/
theorem buildTree_leafPaths (h : buildNodes freq ≠ []) :
    ∃ paths, LeafPaths (buildNodes freq) (buildTree freq).root.toNat paths ∧
      (paths.map Prod.snd).Perm (presentSymbols freq) := by
  obtain ⟨pq, hlabelled, hone⟩ := buildNodes_labelled freq
  have hlast := hlabelled.forest.last h
  obtain ⟨r, rfl⟩ := List.length_eq_one_iff.mp (Nat.le_antisymm hone (List.length_pos_of_mem hlast))
  obtain ⟨paths, hpaths, hperm⟩ := hlabelled.trees
  rw [buildTree_root]
  exact ⟨paths _, hpaths _ hlast, by simpa [List.mem_singleton.mp hlast] using hperm⟩

theorem nodup_presentSymbols (freq : Arr Word 256) : (presentSymbols freq).Nodup := by
  rw [presentSymbols_eq_filter]
  exact nodup_allSymbols.filter _

theorem length_presentSymbols_le (freq : Arr Word 256) : (presentSymbols freq).length ≤ 256 := by
  rw [presentSymbols_eq_filter, ← length_allSymbols]
  exact List.length_filter_le ..

/-! ### The walk of CA_ASSIGN -/

/-- A code register holds the given bits, the first at bit 0, and 0 above them (R8, R171). -/
def HoldsBits (c : CodeBits) (bits : List Bool) : Prop := ∀ k, c.getLsbD k = bits[k]?.getD false

theorem holdsBits_append_false {c : CodeBits} {bits : List Bool} (h : HoldsBits c bits) :
    HoldsBits c (bits ++ [false]) := by
  intro k
  rw [h k, List.getElem?_append]
  split
  · rfl
  · next hk =>
    rw [List.getElem?_eq_none (Nat.le_of_not_lt hk), List.getElem?_singleton]
    split <;> rfl

theorem holdsBits_append_true {c : CodeBits} {bits : List Bool} (h : HoldsBits c bits) (hlen : bits.length < 255) :
    HoldsBits (c ||| (1#255 <<< bits.length)) (bits ++ [true]) := by
  intro k
  have hset := getLsbD_setBit c bits.length k true
  rw [setBit, if_pos rfl] at hset
  rw [hset, List.getElem?_append, h k]
  rcases Nat.lt_trichotomy k bits.length with hk | rfl | hk
  · simp [hk, hk.ne]
  · simp [hlen]
  · simp [hk.ne', hk.not_gt, Nat.sub_ne_zero_of_lt hk]

/-- An entry of a table holds the given bits as its code. -/
structure HoldsCode (e : CodeEntry) (bits : List Bool) : Prop where
  len : e.len.toNat = bits.length
  bits : HoldsBits e.bits bits

theorem HoldsCode.code_eq {e : CodeEntry} {bits : List Bool} (h : HoldsCode e bits) : e.code = bits := by
  refine List.ext_getElem (by rw [length_code, h.len]) fun k hk hk' => ?_
  simp [CodeEntry.code, h.bits k, hk']

theorem assignCodes_leaf {node : Arr Node 511} {i : NodeIndex} (h : (readNode node i).kind = .leaf) (fuel L : Nat)
    (c : CodeBits) (t : CodeTable) :
    assignCodes node (fuel + 1) i L c t = writeSym t (readNode node i).symbol { len := BitVec.ofNat 8 L, bits := c } := by
  simp [assignCodes, h]

theorem assignCodes_internal {node : Arr Node 511} {i : NodeIndex} (h : (readNode node i).kind = .internal) (fuel L : Nat)
    (c : CodeBits) (t : CodeTable) :
    assignCodes node (fuel + 1) i L c t =
      assignCodes node fuel (readNode node i).right (L + 1) (c ||| (1#255 <<< L))
        (assignCodes node fuel (readNode node i).left (L + 1) c t) := by
  simp [assignCodes, h]

theorem codes_of_no_root {t : TreeBuilder} (h : t.rootValid = false) : t.codes = CodeTable.empty := by
  simp [TreeBuilder.codes, h]

theorem codes_of_leaf {t : TreeBuilder} (h : t.rootValid = true) (hkind : (readNode t.node t.root).kind = .leaf) :
    t.codes = writeSym CodeTable.empty (readNode t.node t.root).symbol { len := 1, bits := 0 } := by
  simp [TreeBuilder.codes, h, hkind]

theorem codes_of_internal {t : TreeBuilder} (h : t.rootValid = true)
    (hkind : (readNode t.node t.root).kind = .internal) :
    t.codes = assignCodes t.node 256 t.root 0 0 CodeTable.empty := by
  simp [TreeBuilder.codes, h, hkind]

theorem buildTree_readNode (freq : Arr Word 256) (i : NodeIndex) :
    readNode (buildTree freq).node i = nodeIn (buildNodes freq) i.toNat :=
  (readNode_eq_at _ i).trans (buildTree_at freq _)

/-- R171: Assign gives every leaf under node i the bits so far and the branch bits from i down, and writes no other entry.  A
tree has fewer levels than leaves, so 256 leaves exhaust neither the fuel nor the code register. -/
theorem assignCodes_leafPaths {i : NodeIndex} (h : LeafPaths (buildNodes freq) i.toNat paths)
    (hnodup : (paths.map Prod.snd).Nodup) {fuel : Nat} (hfuel : paths.length ≤ fuel) {bits : List Bool} {c : CodeBits}
    (hc : HoldsBits c bits) (hlen : bits.length + paths.length ≤ 256) (t : CodeTable) :
    (∀ p x, (p, x) ∈ paths →
      HoldsCode (readSym (assignCodes (buildTree freq).node fuel i bits.length c t) x) (bits ++ p)) ∧
    ∀ x, x ∉ paths.map Prod.snd →
      readSym (assignCodes (buildTree freq).node fuel i bits.length c t) x = readSym t x := by
  generalize hi : i.toNat = j at h
  induction h generalizing i fuel bits c t with
  | leaf hkind =>
    subst hi
    rw [← buildTree_readNode] at hkind ⊢
    obtain ⟨fuel, rfl⟩ := Nat.exists_eq_add_one_of_ne_zero (Nat.ne_of_gt hfuel)
    rw [assignCodes_leaf hkind]
    refine ⟨fun p x hx => ?_, fun x hx => readSym_writeSym_ne _ _ fun he => hx (by simp [he])⟩
    rw [List.mem_singleton, Prod.mk.injEq] at hx
    rw [hx.1, hx.2, readSym_writeSym_same, List.append_nil]
    exact ⟨Nat.mod_eq_of_lt hlen, hc⟩
  | internal hkind hl hr hleft hright =>
    subst hi
    simp only [← buildTree_readNode] at hkind hleft hright
    have hlpos := hl.length_pos
    have hrpos := hr.length_pos
    rw [length_branchPaths] at hfuel hlen
    rw [map_snd_branchPaths, List.nodup_append'] at hnodup
    obtain ⟨hnl, hnr, hdisj⟩ := hnodup
    obtain ⟨fuel, rfl⟩ := Nat.exists_eq_add_one_of_ne_zero (show fuel ≠ 0 by omega)
    rw [assignCodes_internal hkind]
    obtain ⟨hlcodes, hlrest⟩ := hleft hnl (fuel := fuel) (by omega) (holdsBits_append_false hc)
      (by rw [List.length_append, List.length_singleton]; omega) t rfl
    obtain ⟨hrcodes, hrrest⟩ := hright hnr (fuel := fuel) (by omega) (holdsBits_append_true hc (by omega))
      (by rw [List.length_append, List.length_singleton]; omega)
      (assignCodes (buildTree freq).node fuel (readNode (buildTree freq).node i).left (bits.length + 1) c t) rfl
    rw [List.length_append, List.length_singleton] at hlcodes hlrest hrcodes hrrest
    refine ⟨fun p x hp => ?_, fun x hx => ?_⟩
    · rcases mem_branchPaths_iff.mp hp with ⟨q, rfl, hq⟩ | ⟨q, rfl, hq⟩
      · rw [List.append_cons, hrrest x (hdisj (List.mem_map_of_mem hq))]
        exact hlcodes q x hq
      · rw [List.append_cons]
        exact hrcodes q x hq
    · rw [map_snd_branchPaths, List.mem_append, not_or] at hx
      rw [hrrest x hx.2, hlrest x hx.1]

/-! ### The table of CA_ASSIGN -/

/-- The table has the listed codes and no others; none of them is empty and none begins the code of another symbol. -/
structure HoldsCodes (t : CodeTable) (codes : List (List Bool × Symbol)) : Prop where
  code : ∀ p x, (p, x) ∈ codes → t.codeOf x = p
  absent : ∀ x, x ∉ codes.map Prod.snd → t.codeOf x = []
  nonempty : ∀ p x, (p, x) ∈ codes → p ≠ []
  prefixCode : ∀ p x q y, (p, x) ∈ codes → (q, y) ∈ codes → p <+: q → x = y

theorem HoldsCodes.codeOf_ne_nil_iff {t : CodeTable} (h : HoldsCodes t paths) (x : Symbol) :
    t.codeOf x ≠ [] ↔ x ∈ paths.map Prod.snd := by
  refine ⟨fun hne => by_contra fun hx => hne (h.absent x hx), fun hx => ?_⟩
  obtain ⟨⟨p, x⟩, hp, rfl⟩ := List.mem_map.mp hx
  rw [h.code p x hp]
  exact h.nonempty p x hp

theorem HoldsCodes.prefixFree {t : CodeTable} (h : HoldsCodes t paths) : t.PrefixFree := by
  intro x y hne hx hy hpre
  obtain ⟨⟨p, x⟩, hp, rfl⟩ := List.mem_map.mp ((h.codeOf_ne_nil_iff x).mp hx)
  obtain ⟨⟨q, y⟩, hq, rfl⟩ := List.mem_map.mp ((h.codeOf_ne_nil_iff y).mp hy)
  rw [h.code p x hp, h.code q y hq] at hpre
  exact hne (h.prefixCode p x q y hp hq hpre)

@[simp] theorem codeOf_empty (x : Symbol) : CodeTable.empty.codeOf x = [] := by
  rw [CodeTable.codeOf, CodeTable.empty, readSym_replicate]
  rfl

theorem holdsCodes_empty : HoldsCodes CodeTable.empty [] where
  code _ _ hp := by cases hp
  absent x _ := codeOf_empty x
  nonempty _ _ hp := by cases hp
  prefixCode _ _ _ _ hp := by cases hp

/-- R172: the table of a tree that is one leaf. -/
theorem holdsCodes_lone (x : Symbol) :
    HoldsCodes (writeSym CodeTable.empty x { len := 1, bits := 0 }) [([false], x)] where
  code p y hp := by
    rw [List.mem_singleton, Prod.mk.injEq] at hp
    rw [hp.1, hp.2, CodeTable.codeOf, readSym_writeSym_same]
    rfl
  absent y hy := by
    rw [CodeTable.codeOf, readSym_writeSym_ne _ _ fun he => hy (by simp [he])]
    exact codeOf_empty y
  nonempty p y hp := by
    rw [List.mem_singleton, Prod.mk.injEq] at hp
    simp [hp.1]
  prefixCode p y q z hp hq _ := by
    rw [List.mem_singleton, Prod.mk.injEq] at hp hq
    rw [hp.2, hq.2]

/-- R171: the table of a tree with a branch at its root. -/
theorem holdsCodes_walk {i : NodeIndex} (h : LeafPaths (buildNodes freq) i.toNat paths)
    (hkind : (nodeIn (buildNodes freq) i.toNat).kind = .internal) (hnodup : (paths.map Prod.snd).Nodup)
    (hlen : paths.length ≤ 256) :
    HoldsCodes (assignCodes (buildTree freq).node 256 i 0 0 CodeTable.empty) paths := by
  obtain ⟨hcodes, hrest⟩ := assignCodes_leafPaths h hnodup hlen (bits := []) (c := 0) (fun k => by simp)
    (by simpa using hlen) CodeTable.empty
  exact { code := fun p x hp => (hcodes p x hp).code_eq
          absent := fun x hx => (congrArg CodeEntry.code (hrest x hx)).trans (codeOf_empty x)
          nonempty := fun p x hp => h.ne_nil_of_internal hkind hp
          prefixCode := fun p x q y => h.eq_of_prefix }

/-- R170 to R172, R182: the table of the built tree has such codes for exactly the symbols that occur. -/
theorem buildTree_codes (freq : Arr Word 256) :
    ∃ codes, HoldsCodes (buildTree freq).codes codes ∧ (codes.map Prod.snd).Perm (presentSymbols freq) := by
  by_cases hne : buildNodes freq = []
  · have hnone : presentSymbols freq = [] := by
      by_contra h
      exact buildNodes_ne_nil (List.length_pos_of_ne_nil h) hne
    have hroot : (buildTree freq).rootValid = false := by simp [buildTree, hne]
    rw [codes_of_no_root hroot, hnone]
    exact ⟨[], holdsCodes_empty, .refl _⟩
  have hroot := (buildTree_rootValid_iff freq).mpr hne
  obtain ⟨paths, hpaths, hperm⟩ := buildTree_leafPaths hne
  cases hkind : (nodeIn (buildNodes freq) (buildTree freq).root.toNat).kind with
  | leaf =>
    rw [codes_of_leaf hroot (by rwa [buildTree_readNode]), buildTree_readNode]
    rw [hpaths.eq_of_leaf hkind] at hperm
    exact ⟨_, holdsCodes_lone _, hperm⟩
  | internal =>
    rw [codes_of_internal hroot (by rwa [buildTree_readNode])]
    refine ⟨paths, holdsCodes_walk hpaths hkind (hperm.nodup_iff.mpr (nodup_presentSymbols freq)) ?_, hperm⟩
    rw [← List.length_map Prod.snd, hperm.length_eq]
    exact length_presentSymbols_le freq

/-- Settles O40: the codes lead to the leaves of one tree, which are the symbols that occur, so the table passes the check. -/
theorem caAssignAlwaysGivesValidTable : Obligations.CaAssignAlwaysGivesValidTable := by
  intro s herr hidle hcurrent hvalid
  obtain ⟨codes, hcodes, hperm⟩ := buildTree_codes s.fc.freq
  rw [← hcurrent hvalid] at hcodes
  refine ⟨_, exec_caAssign herr hidle hvalid, ?_⟩
  rw [validateTable_of_valid (s := { s with table := s.tree.codes }) (valid_of_prefixFree hcodes.prefixFree)]
  refine ⟨herr, rfl, hcodes.prefixFree, fun x => ?_⟩
  rw [State.freqOf, ← mem_presentSymbols_iff, ← hperm.mem_iff]
  exact hcodes.codeOf_ne_nil_iff x

end Sys2Proof.Proofs
end

section
/-! The validity check is prefix-freedom (R177), and the matcher finds the least symbol whose code the candidate is (R180). -/

namespace Sys2Proof.Proofs

open Sys2Proof Sys2Proof.Machine Sys2Proof.Laws

variable {t : CodeTable} {L : Nat} {c : CodeBits} {x y : Symbol}

/-- A table that passes the check has no code that begins another one (R177). -/
theorem prefixFree_of_valid (h : t.valid = true) : t.PrefixFree := by
  simp only [CodeTable.valid, List.all_eq_true, Bool.or_eq_true, beq_iff_eq, Bool.not_eq_true', Prod.forall] at h
  intro x y hne hx hy hpre
  rcases h x _ ((mem_entries_iff t x _).mpr ⟨rfl, hx⟩) y _ ((mem_entries_iff t y _).mpr ⟨rfl, hy⟩) with he | hnot
  · exact hne he
  · rw [← Bool.not_eq_true, isPrefixOf_iff] at hnot
    exact hnot hpre

/-- Settles O35: each pair of entries passes the check's test iff the one's code does not begin the other's. -/
theorem validityIsPrefixFreedom : Obligations.ValidityIsPrefixFreedom := fun _ =>
  ⟨prefixFree_of_valid, valid_of_prefixFree⟩

/-- A symbol matches a candidate when its code is the candidate's bits (R180). -/
theorem matches_iff_codeOf (t : CodeTable) (L : Nat) (c : CodeBits) (x : Symbol) :
    t.Matches L c x ↔ t.codeOf x = (List.range L).map c.getLsbD := by
  unfold CodeTable.Matches CodeTable.codeOf CodeEntry.code
  constructor
  · rintro ⟨rfl, hbits⟩
    exact List.map_congr_left fun k hk => hbits k (List.mem_range.mp hk)
  · intro h
    obtain rfl : (readSym t x).len.toNat = L := by simpa using congrArg List.length h
    exact ⟨rfl, fun k hk => List.map_inj_left.mp h k (List.mem_range.mpr hk)⟩

theorem isCode_iff_matches (t : CodeTable) (L : Nat) (c : CodeBits) (x : Symbol) :
    (readSym t x).isCode L c = true ↔ t.Matches L c x := by
  rw [CodeEntry.isCode, Bool.and_eq_true, beq_iff_eq, beq_iff_eq, lowBits_eq_iff, CodeTable.Matches]

/-- The matcher tries the symbols in ascending order (R180). -/
theorem lookup_eq_find? (t : CodeTable) (L : Nat) (c : CodeBits) :
    t.lookup L c = allSymbols.find? fun x => (readSym t x).isCode L c := by
  rw [CodeTable.lookup, zip_toList, List.find?_map, Option.map_map]
  exact Option.map_id'

theorem lookup_eq_none_iff : t.lookup L c = none ↔ ∀ x, ¬ t.Matches L c x := by
  simp only [lookup_eq_find?, List.find?_eq_none, mem_allSymbols, forall_const, isCode_iff_matches]

theorem lookup_eq_some_iff : t.lookup L c = some x ↔ t.Matches L c x ∧ ∀ y, t.Matches L c y → x.toNat ≤ y.toNat := by
  have hsymbol : ∀ {k} (hk : k < allSymbols.length), allSymbols[k] = BitVec.ofNat 8 k := fun hk => by simp [allSymbols]
  rw [lookup_eq_find?, List.find?_eq_some_iff_getElem, isCode_iff_matches]
  refine and_congr_right fun _ => ⟨?_, fun hleast => ⟨x.toNat, by simpa using x.isLt, by simp [hsymbol], fun k hk => ?_⟩⟩
  · rintro ⟨k, hk, rfl, hbefore⟩ y hy
    rw [length_allSymbols] at hk
    rw [hsymbol, BitVec.toNat_ofNat, Nat.mod_eq_of_lt hk]
    refine Nat.le_of_not_lt fun hlt => ?_
    have hnot := hbefore y.toNat hlt
    rw [hsymbol, BitVec.ofNat_toNat, BitVec.setWidth_eq, (isCode_iff_matches t L c y).mpr hy] at hnot
    cases hnot
  · rw [Bool.not_eq_true', ← Bool.not_eq_true, hsymbol, isCode_iff_matches]
    intro hmatch
    have hle := hleast _ hmatch
    rw [BitVec.toNat_ofNat, Nat.mod_eq_of_lt (hk.trans x.isLt)] at hle
    omega

/-- No two symbols of a valid table have the same code (R177, R180). -/
theorem eq_of_matches (hvalid : t.valid = true) (hL : 1 ≤ L) (hx : t.Matches L c x) (hy : t.Matches L c y) : x = y := by
  rw [matches_iff_codeOf] at hx hy
  have hne : (List.range L).map c.getLsbD ≠ [] := by simpa using Nat.ne_of_gt hL
  by_contra hxy
  exact prefixFree_of_valid hvalid x y hxy (hx ▸ hne) (hy ▸ hne) (by rw [hx, hy])

/-- Settles O36: the search goes through the symbols in ascending order and stops at the first match. -/
theorem lookupFindsLeastMatch : Obligations.LookupFindsLeastMatch := fun _ _ _ hL _ =>
  ⟨lookup_eq_none_iff, fun _ => lookup_eq_some_iff, fun hvalid _ _ => eq_of_matches hvalid hL⟩

end Sys2Proof.Proofs
end

section
/-! The table-writing commands (R170, R173 to R176): what they do when no session is open, and that an open session refuses
them (R181). -/

namespace Sys2Proof.Proofs

open Sys2Proof Sys2Proof.Machine Sys2Proof.Laws

variable {s t : State} {i : Instr}

/-! ### The commands when nothing refuses them -/

theorem exec_caAssign_stale (herr : s.errcause = .noError) (hidle : s.sessionActive = false)
    (hstale : s.tree.treeValid = false) : exec .caAssign s = .next { s with errcause := .sequence } := by
  refine (gated_of_noError herr _ : execCaAssign s = _).trans ((guarded_of_idle hidle _).trans ?_)
  rw [if_neg (by simp [hstale]), raise_of_noError s _ herr]

theorem exec_ctClear (herr : s.errcause = .noError) (hidle : s.sessionActive = false) :
    exec .ctClear s = .next { s with table := CodeTable.empty, tableValid := false } :=
  (gated_of_noError herr _ : execCtClear s = _).trans (guarded_of_idle hidle _)

theorem exec_ctValidate (herr : s.errcause = .noError) (hidle : s.sessionActive = false) :
    exec .ctValidate s = .next s.validateTable :=
  (gated_of_noError herr _ : execCtValidate s = _).trans (guarded_of_idle hidle _)

/-- Building the inverse with no error recorded (R170, R176). -/
theorem validateTable_of_noError (herr : s.errcause = .noError) :
    s.validateTable =
      { s with tableValid := s.table.valid, errcause := if s.table.valid then .noError else .invalidTable } := by
  cases hvalid : s.table.valid with
  | true => rw [validateTable_of_valid s hvalid, if_pos rfl, ← herr]
  | false =>
    rw [validateTable_of_invalid s hvalid]
    exact raise_of_noError { s with tableValid := false } _ herr

theorem validateTable_errcause_ne_sequence (herr : s.errcause = .noError) : s.validateTable.errcause ≠ .sequence := by
  rw [validateTable_of_noError herr]
  dsimp only
  split <;> decide

/-- Settles O37: CA_ASSIGN writes the table and then builds its inverse, which writes TABLE_VALID and the cause. -/
theorem caAssignWritesOnlyTheTable : Obligations.CaAssignWritesOnlyTheTable := fun s herr hidle =>
  ⟨exec_caAssign_stale herr hidle, fun hvalid =>
    ⟨_, exec_caAssign herr hidle hvalid, by rw [validateTable_of_noError (s := { s with table := s.tree.codes }) herr]⟩⟩

/-- Settles O41: each of the three commands is one write of the table, which clears TABLE_VALID. -/
theorem tableWritesChangeOneEntry : Obligations.TableWritesChangeOneEntry := by
  intro s x len k herr hidle
  refine ⟨⟨_, exec_ctClear herr hidle, rfl, fun y => readSym_replicate CodeEntry.absent y⟩,
    ⟨_, exec_ctSetlen herr hidle x len, rfl, entryOf_setEntry_same s x _, fun y => entryOf_setEntry_ne s _⟩,
    ⟨_, exec_ctSetbits herr hidle x k, rfl, ?_, fun j hj => ?_, fun y => entryOf_setEntry_ne s _⟩⟩
  · rw [entryOf_setEntry_same]
  · rw [entryOf_setEntry_same]
    exact getLsbD_writeChunk _ _ _ _ hj

/-- Settles O42: the check that CT_VALIDATE makes is prefix-freedom (O35). -/
theorem ctValidateChecksPrefixFreedom : Obligations.CtValidateChecksPrefixFreedom := by
  intro s herr hidle
  rw [exec_ctValidate herr hidle, validateTable_of_noError herr, ← validityIsPrefixFreedom s.table]
  refine ⟨fun hvalid => ?_, fun hinvalid => ?_⟩
  · rw [hvalid, if_pos rfl, ← herr]
  · rw [Bool.eq_false_of_not_eq_true hinvalid, if_neg Bool.false_ne_true]

/-! ### The session guard -/

/-- R181: every table-writing command's meaning begins with the gate and the session guard. -/
theorem exec_of_sessionActive (hw : isTableWrite i = true) (herr : s.errcause = .noError)
    (hactive : s.sessionActive = true) : exec i s = .next { s with errcause := .sequence } := by
  have hguard : ∀ body, (s.gated fun s => s.guarded body) = .next { s with errcause := .sequence } := fun body => by
    rw [gated_of_noError herr, guarded_of_active hactive, raise_of_noError s _ herr]
  unfold exec
  cases i with
  | caAssign | ctClear | ctSetlen | ctSetbits | ctValidate => exact hguard _
  | _ => cases hw

/-- R181: no outcome of a command but SOFT_RESET's that writes the table arises while a session is open. -/
theorem effect_table_of_sessionActive (h : Effect s i t) (hi : i ≠ .softReset) (hactive : s.sessionActive = true) :
    t.table = s.table ∧ t.tableValid = s.tableValid := by
  cases h with
  | softReset => exact absurd rfl hi
  | caAssign hidle | ctClear hidle | entrySet _ _ _ hidle | ctValidate hidle =>
    rw [hactive] at hidle
    cases hidle
  | _ => simp

/-- R181: with no session open and a current tree for CA_ASSIGN, a table-writing command has no reason to raise SEQUENCE. -/
theorem exec_tableWrite_errcause (hw : isTableWrite i = true) (herr : s.errcause = .noError)
    (hidle : s.sessionActive = false) (htree : i = .caAssign → s.tree.treeValid = true) :
    ∃ t, exec i s = .next t ∧ t.errcause ≠ .sequence := by
  have hne : s.errcause ≠ .sequence := by rw [herr]; decide
  cases i with
  | caAssign => exact ⟨_, exec_caAssign herr hidle (htree rfl), validateTable_errcause_ne_sequence herr⟩
  | ctClear => exact ⟨_, exec_ctClear herr hidle, hne⟩
  | ctSetlen x len => exact ⟨_, exec_ctSetlen herr hidle x len, hne⟩
  | ctSetbits x k => exact ⟨_, exec_ctSetbits herr hidle x k, hne⟩
  | ctValidate => exact ⟨_, exec_ctValidate herr hidle, validateTable_errcause_ne_sequence herr⟩
  | _ => cases hw

/-- Settles O43: the guard refuses the table-writing commands in a session and only then, and no other command writes the
table. -/
theorem sessionGuardFreezesTable : Obligations.SessionGuardFreezesTable :=
  ⟨fun _ s hw herr hsession => exec_of_sessionActive hw herr ((sessionActive_iff s).mpr hsession),
    fun _ s _ h hi hsession => effect_table_of_sessionActive (exec_effect h) hi ((sessionActive_iff s).mpr hsession),
    fun _ s hw herr henc hdec =>
      exec_tableWrite_errcause hw herr (by simp [State.sessionActive, henc, hdec])⟩

end Sys2Proof.Proofs
end

section
/-! The codes CA_ASSIGN gives (R171, R172): a walk of the built tree that ends at a leaf follows that leaf's branch bits, and
the tree of a lone symbol is one leaf. -/

namespace Sys2Proof.Proofs

open Sys2Proof Sys2Proof.Machine Sys2Proof.Laws

variable {freq : Arr Word 256} {paths : List (List Bool × Symbol)}

/-! ### Walks -/

theorem walk_cons_leaf {t : TreeBuilder} {i : NodeIndex} (h : (readNode t.node i).kind = .leaf) (b : Bool)
    (bits : List Bool) : t.walk i (b :: bits) = none := by
  simp [TreeBuilder.walk, h]

theorem walk_cons_internal {t : TreeBuilder} {i : NodeIndex} (h : (readNode t.node i).kind = .internal) (b : Bool)
    (bits : List Bool) :
    t.walk i (b :: bits) = t.walk (if b then (readNode t.node i).right else (readNode t.node i).left) bits := by
  simp [TreeBuilder.walk, h]

/-- The leaf a walk ends at is listed under the node it starts from, with the bits it followed. -/
theorem LeafPaths.mem_of_walk {i : NodeIndex} (h : LeafPaths (buildNodes freq) i.toNat paths) {bits : List Bool}
    {n : Node} (hwalk : (buildTree freq).walk i bits = some n) (hleaf : n.kind = .leaf) : (bits, n.symbol) ∈ paths := by
  generalize hi : i.toNat = j at h
  induction h generalizing i bits with
  | leaf hkind =>
    subst hi
    rw [← buildTree_readNode] at hkind ⊢
    cases bits with
    | nil =>
      obtain rfl := Option.some.inj hwalk
      exact List.mem_singleton.mpr rfl
    | cons b bits => rw [walk_cons_leaf hkind] at hwalk; cases hwalk
  | internal hkind _ _ hleft hright =>
    subst hi
    simp only [← buildTree_readNode] at hkind hleft hright
    cases bits with
    | nil =>
      obtain rfl := Option.some.inj hwalk
      rw [hkind] at hleaf
      cases hleaf
    | cons b bits =>
      rw [walk_cons_internal hkind] at hwalk
      cases b with
      | false => exact mem_branchPaths_iff.mpr (.inl ⟨bits, rfl, hleft hwalk rfl⟩)
      | true => exact mem_branchPaths_iff.mpr (.inr ⟨bits, rfl, hright hwalk rfl⟩)

/-! ### The table of the built tree -/

/-- R172: the tree of a lone symbol is one leaf, whose code is "0". -/
theorem buildTree_codes_lone {x : Symbol} (h : presentSymbols freq = [x]) :
    (buildTree freq).codes = writeSym CodeTable.empty x { len := 1, bits := 0 } := by
  have hone : leafCount freq = 1 := congrArg List.length h
  have hroot : (buildTree freq).root.toNat = 0 := by rw [buildTree_root, length_buildNodes hone.ge, hone]
  have hnode : readNode (buildTree freq).node (buildTree freq).root = Node.leafOf x (readSym freq x) := by
    rw [buildTree_readNode, hroot]
    exact nodeIn_buildNodes_leaf (by rw [h]; rfl)
  rw [codes_of_leaf ((buildTree_rootValid_iff freq).mpr (buildNodes_ne_nil hone.ge)) (by rw [hnode]; rfl), hnode]
  rfl

/-- R171: with two symbols or more, the entry of the leaf that a walk from the root ends at holds the walk's bits. -/
theorem buildTree_codes_of_walk (h : 2 ≤ leafCount freq) {bits : List Bool} {n : Node}
    (hwalk : (buildTree freq).walk (buildTree freq).root bits = some n) (hleaf : n.kind = .leaf) :
    HoldsCode (readSym (buildTree freq).codes n.symbol) bits := by
  have hne : buildNodes freq ≠ [] := buildNodes_ne_nil (Nat.le_of_succ_le h)
  obtain ⟨paths, hpaths, hperm⟩ := buildTree_leafPaths hne
  have hlen : paths.length = leafCount freq := (List.length_map ..).symm.trans hperm.length_eq
  have hkind : (nodeIn (buildNodes freq) (buildTree freq).root.toNat).kind = .internal := by
    cases hkind : (nodeIn (buildNodes freq) (buildTree freq).root.toNat).kind with
    | leaf =>
      rw [hpaths.eq_of_leaf hkind, List.length_singleton] at hlen
      omega
    | internal => rfl
  rw [codes_of_internal ((buildTree_rootValid_iff freq).mpr hne) (by rwa [buildTree_readNode])]
  have hfits : paths.length ≤ 256 := hlen ▸ length_presentSymbols_le freq
  exact (assignCodes_leafPaths hpaths (hperm.nodup_iff.mpr (nodup_presentSymbols freq)) hfits (bits := []) (c := 0)
    (fun k => by simp) (by simpa using hfits) CodeTable.empty).1 bits n.symbol (hpaths.mem_of_walk hwalk hleaf)

/-- Settles O38: the table has a code for exactly the symbols that occur (O40), and a lone symbol's is "0". -/
theorem degenerateTreesGiveValidTables : Obligations.DegenerateTreesGiveValidTables := by
  intro s herr hidle hcurrent hvalid
  obtain ⟨t, ht, hnoError, hchecked, -, hcodes⟩ := caAssignAlwaysGivesValidTable s herr hidle hcurrent hvalid
  have habsent : ∀ y, y ∉ presentSymbols s.fc.freq → t.table.codeOf y = [] := fun y hy => by
    rw [mem_presentSymbols_iff] at hy
    exact not_not.mp (mt (hcodes y).mp hy)
  refine ⟨fun hnone => ⟨t, ht, hchecked, hnoError, fun x => habsent x (by simp [hnone])⟩, fun x hlone =>
    ⟨t, ht, hchecked, hnoError, ?_, fun y hy => habsent y (by simpa [hlone] using hy)⟩⟩
  obtain rfl := Host.Outcome.next.inj ((exec_caAssign herr hidle hvalid).symm.trans ht)
  rw [validateTable_table, hcurrent hvalid, buildTree_codes_lone hlone]
  exact (holdsCodes_lone x).code _ _ (List.mem_singleton.mpr rfl)

/-- Settles O39: a walk to a leaf follows the branch bits that CA_ASSIGN gives it. -/
theorem assignedCodesAreLeafPaths : Obligations.AssignedCodesAreLeafPaths := by
  intro s herr hidle hcurrent hvalid htwo
  refine ⟨_, exec_caAssign herr hidle hvalid, fun bits n hwalk hleaf => ?_⟩
  rw [hcurrent hvalid] at hwalk
  have hcode := buildTree_codes_of_walk htwo hwalk hleaf
  rw [State.entryOf, CodeTable.codeOf, validateTable_table, hcurrent hvalid]
  refine ⟨hcode.code_eq, fun k hk => ?_⟩
  rw [hcode.bits k, List.getElem?_eq_none hk]
  rfl

end Sys2Proof.Proofs
end

section
/-! DE_BYTE (R221, R223): each bit joins the candidate or completes a code, and the loop over a byte's bits turns the bits it
takes into the codes of the queued symbols and the candidate left behind. -/

namespace Sys2Proof.Proofs

open Sys2Proof Sys2Proof.Machine Sys2Proof.Laws

variable {s : State} {t : CodeTable} {u v : Unpacker} {b : Bool} {bs : List Bool} {x : Symbol} {xs : List Symbol}
  {rest : List Bool} {old : Nat}

/-! ### First matches -/

/-- With no bit tried now there is no match to make (R223). -/
theorem firstMatches_nil_of_length_le (t : CodeTable) (h : rest.length ≤ old) : t.FirstMatches old [] rest := by
  rw [firstMatches_nil_iff]
  rintro p r _ rfl _ hold
  rw [List.length_append] at h
  omega

/-- A symbol emitted at the first bit tried now, before the first matches of the bits behind it. -/
theorem firstMatches_cons (h : t.FirstMatches 0 xs rest) (hlen : (t.codeOf x).length = old + 1)
    (hleast : ∀ y, t.codeOf y = t.codeOf x → x.toNat ≤ y.toNat) : t.FirstMatches old (x :: xs) rest := by
  refine ⟨fun ys zs p r y hs hp hne hold hy => ?_, fun z ws hs => ?_⟩
  · cases ys with
    | nil =>
      obtain rfl : x :: xs = zs := hs
      refine ⟨x, xs, rfl, ?_⟩
      have hold : old < p.length := hold
      rcases Nat.lt_or_ge (t.codeOf x).length p.length with hlt | hge
      · exact .inl hlt
      have heq : (t.codeOf x).length = p.length := by omega
      rw [bitstream_cons, List.append_assoc] at hp
      exact .inr ⟨heq, hleast y (hy.trans (List.append_inj_left hp heq.symm))⟩
    | cons z ys =>
      obtain ⟨-, hxs⟩ := List.cons.inj hs
      refine h.1 ys zs p r y hxs hp hne ?_ hy
      rw [List.length_append]
      exact Nat.add_pos_right _ (List.length_pos_of_ne_nil hne)
  · obtain ⟨rfl, -⟩ := List.cons.inj hs
    omega

/-- A first bit tried now that completes no code, before the first matches of the bits behind it. -/
theorem firstMatches_of_miss {cand bits : List Bool} (h : t.FirstMatches (old + 1) xs rest) (hcand : cand.length = old + 1)
    (hbits : cand ++ bits = t.bitstream xs ++ rest) (hmiss : ∀ y, t.codeOf y ≠ cand) : t.FirstMatches old xs rest := by
  refine ⟨fun ys zs p r y hs hp hne hold hy => ?_, fun z ws hs => Nat.lt_of_succ_lt (h.2 z ws hs)⟩
  rcases Nat.lt_or_ge (old + 1) (t.bitstream ys ++ p).length with hlt | hge
  · exact h.1 ys zs p r y hs hp hne hlt hy
  cases ys with
  | nil =>
    obtain rfl : xs = zs := hs
    have hlen : p.length = cand.length := by
      have hold : old < p.length := hold
      have hge : p.length ≤ old + 1 := hge
      omega
    exact absurd (hy.trans (List.append_inj_left (hp.trans hbits.symm) hlen)) (hmiss y)
  | cons z ys =>
    have hz := h.2 z (ys ++ zs) hs
    rw [bitstream_cons, List.length_append, List.length_append] at hge
    omega

/-! ### One bit -/

@[simp] theorem length_candBits (u : Unpacker) : u.candBits.length = u.candLen.toNat := by
  simp [Unpacker.candBits]

/-- A bit written at position n joins the n bits below it. -/
theorem map_getLsbD_setBit {w : Nat} (c : BitVec w) {n : Nat} (hn : n < w) (b : Bool) :
    (List.range (n + 1)).map (setBit c n b).getLsbD = (List.range n).map c.getLsbD ++ [b] := by
  have hbelow : (List.range n).map (setBit c n b).getLsbD = (List.range n).map c.getLsbD :=
    List.map_congr_left fun j hj => by
      have hne : j ≠ n := Nat.ne_of_lt (List.mem_range.mp hj)
      simp [getLsbD_setBit, hne]
  rw [List.range_succ, List.map_append, hbelow, List.map_singleton, getLsbD_setBit, if_pos ⟨rfl, hn⟩]

/-- R223: the candidate after AppendBit matches the symbols whose code it is. -/
theorem matches_setBit_iff (t : CodeTable) (hlen : u.candLen.toNat ≤ 254) (b : Bool) (x : Symbol) :
    t.Matches (u.candLen.toNat + 1) (setBit u.cand u.candLen.toNat b) x ↔ t.codeOf x = u.candBits ++ [b] := by
  rw [matches_iff_codeOf, map_getLsbD_setBit _ (Nat.lt_succ_of_le hlen), Unpacker.candBits]

/-- The unpacker once a bit completed the code of a symbol (R223). -/
def emitted (u : Unpacker) (x : Symbol) : Unpacker :=
  { u with
    dkq := u.dkq ++ [x], decCount := u.decCount + 1, cand := 0, candLen := 0
    dstate := if u.decCount + 1 = u.decTarget then .done else u.dstate }

/-- The unpacker once a bit joined the candidate and completed no code (R223). -/
def extended (u : Unpacker) (b : Bool) : Unpacker :=
  { u with cand := setBit u.cand u.candLen.toNat b, candLen := BitVec.ofNat 8 (u.candLen.toNat + 1) }

theorem toNat_extended_candLen (hlen : u.candLen.toNat ≤ 254) (b : Bool) :
    (extended u b).candLen.toNat = u.candLen.toNat + 1 :=
  Nat.mod_eq_of_lt (show u.candLen.toNat + 1 < 2 ^ 8 by omega)

theorem extended_candBits (hlen : u.candLen.toNat ≤ 254) (b : Bool) :
    (extended u b).candBits = u.candBits ++ [b] := by
  rw [Unpacker.candBits, toNat_extended_candLen hlen]
  exact map_getLsbD_setBit _ (Nat.lt_succ_of_le hlen) b

/-- R223 over bit strings: the bit completes the code of the least symbol that has this code, or no symbol has it. -/
theorem decodeBit_code_cases (t : CodeTable) (hlen : u.candLen.toNat ≤ 254) (b : Bool) :
    (∃ x, t.codeOf x = u.candBits ++ [b] ∧ (∀ y, t.codeOf y = t.codeOf x → x.toNat ≤ y.toNat) ∧
      u.decodeBit t b = .ok (emitted u x)) ∨
    ((∀ x, t.codeOf x ≠ u.candBits ++ [b]) ∧
      u.decodeBit t b = if u.candLen.toNat = 254 then .overflow (extended u b) else .ok (extended u b)) := by
  rcases decodeBit_cases t u b with ⟨x, hx, hok⟩ | ⟨hnone, hmiss⟩
  · obtain ⟨hmatch, hleast⟩ := lookup_eq_some_iff.mp hx
    simp only [matches_setBit_iff t hlen b] at hmatch hleast
    exact .inl ⟨x, hmatch, fun y hy => hleast y (hy.trans hmatch), hok⟩
  · rw [lookup_eq_none_iff] at hnone
    simp only [matches_setBit_iff t hlen b] at hnone
    refine .inr ⟨hnone, hmiss.trans ?_⟩
    by_cases hfull : u.candLen.toNat = 254 <;> simp [hfull, maxCodeLen, extended]

/-- Everything the loop of DE_BYTE can do with its next bit in a session (R221, R223): a symbol is queued and the session is
over or goes on, or the candidate grows and is full or the loop goes on. -/
theorem decodeBits_cons_code_cases (t : CodeTable) (hacc : Accumulates u) (b : Bool) (bs : List Bool) :
    (∃ x, t.codeOf x = u.candBits ++ [b] ∧ (∀ y, t.codeOf y = t.codeOf x → x.toNat ≤ y.toNat) ∧
      ((Finished (emitted u x) ∧ u.decodeBits t (b :: bs) = .ok (emitted u x)) ∨
        (Accumulates (emitted u x) ∧ u.decodeBits t (b :: bs) = (emitted u x).decodeBits t bs))) ∨
    ((∀ x, t.codeOf x ≠ u.candBits ++ [b]) ∧
      ((u.candLen.toNat = 254 ∧ u.decodeBits t (b :: bs) = .overflow (extended u b)) ∨
        (Accumulates (extended u b) ∧ u.decodeBits t (b :: bs) = (extended u b).decodeBits t bs))) := by
  have hclean := decodeBit_clean t hacc b
  rcases decodeBit_code_cases t hacc.len b with ⟨x, hx, hleast, hok⟩ | ⟨hmiss, hstep⟩
  · refine .inl ⟨x, hx, hleast, ?_⟩
    rw [hok] at hclean
    rcases hclean with hopen | hdone
    · exact .inr ⟨hopen, by simp [Unpacker.decodeBits, hok, hopen.dstate]⟩
    · exact .inl ⟨hdone, by simp [Unpacker.decodeBits, hok, hdone.dstate]⟩
  · refine .inr ⟨hmiss, ?_⟩
    by_cases hfull : u.candLen.toNat = 254
    · rw [if_pos hfull] at hstep
      exact .inl ⟨hfull, by simp [Unpacker.decodeBits, hstep]⟩
    · rw [if_neg hfull] at hstep
      rw [hstep] at hclean
      have hstate : (extended u b).dstate = .accumulating := hacc.dstate
      have hopen : Accumulates (extended u b) := hclean.resolve_right fun hdone => by
        rw [hdone.dstate] at hstate
        cases hstate
      exact .inr ⟨hopen, by simp [Unpacker.decodeBits, hstep, hstate]⟩

/-! ### The bits of a byte -/

/-- What the loop of DE_BYTE has done when it took `used` of the bits `bs` and queued the symbols `xs` (R221, R223). -/
structure DecodedTo (t : CodeTable) (u : Unpacker) (bs : List Bool) (v : Unpacker) (xs : List Symbol) (used : Nat) :
    Prop where
  target : v.decTarget = u.decTarget
  le : used ≤ bs.length
  symbols : xs.length ≤ used
  queued : v.dkq = u.dkq ++ xs
  count : v.decCount.toNat = u.decCount.toNat + xs.length
  bits : u.candBits ++ bs.take used = t.bitstream xs ++ v.candBits
  first : t.FirstMatches u.candLen.toNat xs v.candBits
  ends : (Accumulates v ∧ used = bs.length) ∨ (Finished v ∧ v.candLen = 0)

theorem Accumulates.emitted_decCount (h : Accumulates u) (x : Symbol) :
    (emitted u x).decCount.toNat = u.decCount.toNat + 1 := by
  have hcount := h.count
  have htarget := u.decTarget.isLt
  exact Nat.mod_eq_of_lt (show u.decCount.toNat + 1 < 2 ^ 32 by omega)

theorem decodedTo_nil (h : Accumulates u) : DecodedTo t u [] u [] 0 where
  target := rfl
  le := Nat.le_refl 0
  symbols := Nat.le_refl 0
  queued := (List.append_nil _).symm
  count := rfl
  bits := List.append_nil _
  first := firstMatches_nil_of_length_le t (length_candBits u).le
  ends := .inl ⟨h, rfl⟩

theorem DecodedTo.of_extended {used : Nat} (h : DecodedTo t (extended u b) bs v xs used) (hlen : u.candLen.toNat ≤ 254)
    (hmiss : ∀ x, t.codeOf x ≠ u.candBits ++ [b]) : DecodedTo t u (b :: bs) v xs (used + 1) := by
  have hbits := h.bits
  have hfirst := h.first
  rw [extended_candBits hlen] at hbits
  rw [toNat_extended_candLen hlen] at hfirst
  exact { target := h.target
          le := Nat.succ_le_succ h.le
          symbols := Nat.le_succ_of_le h.symbols
          queued := h.queued
          count := h.count
          bits := (List.append_cons ..).trans hbits
          first := firstMatches_of_miss hfirst (by simp) hbits hmiss
          ends := h.ends.imp_left (And.imp_right (congrArg (· + 1))) }

theorem DecodedTo.of_emitted {used : Nat} (h : DecodedTo t (emitted u x) bs v xs used) (hacc : Accumulates u)
    (hx : t.codeOf x = u.candBits ++ [b]) (hleast : ∀ y, t.codeOf y = t.codeOf x → x.toNat ≤ y.toNat) :
    DecodedTo t u (b :: bs) v (x :: xs) (used + 1) where
  target := h.target
  le := Nat.succ_le_succ h.le
  symbols := Nat.succ_le_succ h.symbols
  queued := h.queued.trans (List.append_assoc ..)
  count := by
    rw [h.count, hacc.emitted_decCount, List.length_cons]
    omega
  bits := by
    have hbits : bs.take used = t.bitstream xs ++ v.candBits := h.bits
    rw [List.take_succ_cons, hbits, bitstream_cons, hx]
    simp
  first := firstMatches_cons h.first (by simp [hx]) hleast
  ends := h.ends.imp_left (And.imp_right (congrArg (· + 1)))

/-- The loop left at the symbol that ends the session (R221). -/
theorem decodedTo_last (hacc : Accumulates u) (hlast : Finished (emitted u x))
    (hx : t.codeOf x = u.candBits ++ [b]) (hleast : ∀ y, t.codeOf y = t.codeOf x → x.toNat ≤ y.toNat) :
    DecodedTo t u (b :: bs) (emitted u x) [x] 1 := by
  have hnone : DecodedTo t (emitted u x) bs (emitted u x) [] 0 :=
    { target := rfl
      le := Nat.zero_le _
      symbols := Nat.le_refl 0
      queued := (List.append_nil _).symm
      count := rfl
      bits := List.append_nil _
      first := firstMatches_nil_of_length_le t (Nat.le_refl 0)
      ends := .inr ⟨hlast, rfl⟩ }
  exact hnone.of_emitted hacc hx hleast

/-- What the loop of DE_BYTE has done when the 255th bit of the candidate completed no code (R223). -/
structure Overflowed (t : CodeTable) (u : Unpacker) (bs : List Bool) (v : Unpacker) : Prop where
  len : v.candLen.toNat = 255
  reached : 255 ≤ u.candLen.toNat + bs.length
  count : v.decCount = u.decCount
  target : v.decTarget = u.decTarget
  bits : v.candBits = u.candBits ++ bs.take (255 - u.candLen.toNat)
  noCode : ∀ x k, u.candLen.toNat < k → t.codeOf x ≠ v.candBits.take k

theorem overflowed_full (hfull : u.candLen.toNat = 254) (hmiss : ∀ x, t.codeOf x ≠ u.candBits ++ [b]) :
    Overflowed t u (b :: bs) (extended u b) where
  len := by rw [toNat_extended_candLen hfull.le, hfull]
  reached := by
    rw [List.length_cons]
    omega
  count := rfl
  target := rfl
  bits := by rw [extended_candBits hfull.le, hfull, List.take_succ_cons, List.take_zero]
  noCode x k hk := by
    have hlen : (u.candBits ++ [b]).length ≤ k := by
      rw [List.length_append, length_candBits, List.length_singleton]
      omega
    rw [extended_candBits hfull.le, List.take_of_length_le hlen]
    exact hmiss x

theorem Overflowed.of_extended (h : Overflowed t (extended u b) bs v) (hlen : u.candLen.toNat ≤ 254)
    (hmiss : ∀ x, t.codeOf x ≠ u.candBits ++ [b]) : Overflowed t u (b :: bs) v := by
  obtain ⟨hfull, hreached, hcount, htarget, hbits, hnoCode⟩ := h
  rw [toNat_extended_candLen hlen] at hreached hbits hnoCode
  rw [extended_candBits hlen] at hbits
  refine ⟨hfull, ?_, hcount, htarget, ?_, fun x k hk => ?_⟩
  · rw [List.length_cons]
    omega
  · rw [hbits, List.append_assoc, List.singleton_append, ← List.take_succ_cons]
    congr 2
    omega
  · rcases Nat.eq_or_lt_of_le hk with rfl | hk
    · rw [hbits, List.take_left' (by simp)]
      exact hmiss x
    · exact hnoCode x k hk

/-- The loop of DE_BYTE over a byte's bits (R221): fewer than 255 bits cannot fill a candidate that began among them. -/
theorem decodeBits_decodes (t : CodeTable) (hacc : Accumulates u) (hshort : bs.length < 255) :
    (∃ v xs used, u.decodeBits t bs = .ok v ∧ DecodedTo t u bs v xs used) ∨
    ∃ v, u.decodeBits t bs = .overflow v ∧ Overflowed t u bs v := by
  induction bs generalizing u with
  | nil => exact .inl ⟨u, [], 0, rfl, decodedTo_nil hacc⟩
  | cons b bs ih =>
    rw [List.length_cons] at hshort
    rcases decodeBits_cons_code_cases t hacc b bs with
      ⟨x, hx, hleast, ⟨hlast, hloop⟩ | ⟨hopen, hloop⟩⟩ | ⟨hmiss, ⟨hfull, hloop⟩ | ⟨hopen, hloop⟩⟩ <;> rw [hloop]
    · exact .inl ⟨_, [x], 1, rfl, decodedTo_last hacc hlast hx hleast⟩
    · rcases ih hopen (Nat.lt_of_succ_lt hshort) with ⟨v, xs, used, hv, hdecoded⟩ | ⟨v, -, hover⟩
      · exact .inl ⟨v, x :: xs, used + 1, hv, hdecoded.of_emitted hacc hx hleast⟩
      · have hreached : 255 ≤ 0 + bs.length := hover.reached
        omega
    · exact .inr ⟨_, rfl, overflowed_full hfull hmiss⟩
    · rcases ih hopen (Nat.lt_of_succ_lt hshort) with ⟨v, xs, used, hv, hdecoded⟩ | ⟨v, hv, hover⟩
      · exact .inl ⟨v, xs, used + 1, hv, hdecoded.of_extended hacc.len hmiss⟩
      · exact .inr ⟨v, hv, hover.of_extended hacc.len hmiss⟩

/-! ### The command -/

theorem exec_deByte_done (herr : s.errcause = .noError) (hstate : s.unpacker.dstate = .done) (byte : Byte) :
    exec (.deByte byte) s = .next s :=
  (gated_of_noError herr _ : execDeByte byte s = _).trans (if_pos hstate)

theorem exec_deByte_closed (herr : s.errcause = .noError) (hdone : s.unpacker.dstate ≠ .done)
    (hopen : s.unpacker.dstate ≠ .accumulating) (byte : Byte) :
    exec (.deByte byte) s = .next { s with errcause := .sequence } := by
  refine (gated_of_noError herr _ : execDeByte byte s = _).trans ((if_neg hdone).trans ((if_pos hopen).trans ?_))
  rw [raise_of_noError s _ herr]

theorem exec_deByte_full (herr : s.errcause = .noError) (hopen : s.unpacker.dstate = .accumulating)
    (hroom : s.config.dkDepth.val - s.unpacker.dkq.length < 8) (byte : Byte) :
    exec (.deByte byte) s = .next { s with errcause := .fifoOverflow } := by
  refine (gated_of_noError herr _ : execDeByte byte s = _).trans ?_
  rw [if_neg (by simp [hopen]), if_neg (not_not.mpr hopen), if_pos hroom, raise_of_noError s _ herr]

/-- The state after the loop of DE_BYTE, which AbortDecode and CAND_OVERFLOW end when the candidate is full (R221, R223). -/
def afterLoop (s : State) : BitStep → State
  | .ok v => { s with unpacker := v }
  | .overflow v => { s with unpacker := { v with dstate := .failed, dkq := [] }, errcause := .candOverflow }

theorem exec_deByte_open (herr : s.errcause = .noError) (hopen : s.unpacker.dstate = .accumulating)
    (hroom : ¬ s.config.dkDepth.val - s.unpacker.dkq.length < 8) (byte : Byte) :
    exec (.deByte byte) s = .next (afterLoop s (s.unpacker.decodeBits s.table (byteBits byte))) := by
  refine (gated_of_noError herr _ : execDeByte byte s = _).trans ?_
  rw [if_neg (by simp [hopen]), if_neg (not_not.mpr hopen), if_neg hroom]
  cases s.unpacker.decodeBits s.table (byteBits byte) with
  | ok v => rfl
  | overflow v => exact congrArg _ (raise_of_noError ({ s with unpacker := v } : State).abortDecode _ herr)

/-- Settles O50: the loop over the byte's eight bits ends as `DecodedTo` or `Overflowed` says. -/
theorem deByteConsumesCodes : Obligations.DeByteConsumesCodes := by
  intro s byte herr
  refine ⟨fun hdone => exec_deByte_done herr hdone byte, fun hclosed => ?_, fun hopen hfull => ?_,
    fun hopen hroom hclean => ⟨_, exec_deByte_open herr hopen (by omega) byte, ?_⟩⟩
  · rcases hclosed with h | h <;> exact exec_deByte_closed herr (by simp [h]) (by simp [h]) byte
  · exact exec_deByte_full herr hopen (by omega) byte
  have hacc := accumulates_of_unpackerClean hclean hopen
  rcases decodeBits_decodes s.table hacc (bs := byteBits byte) (by rw [length_byteBits]; decide) with
    ⟨v, xs, used, hv, htarget, hused, hsymbols, hqueued, hcount, hbits, hfirst, hends⟩ |
    ⟨v, hv, hlen, hreached, hcount, htarget, hbits, hnoCode⟩ <;> rw [hv]
  · rw [length_byteBits] at hused hends
    refine ⟨rfl, htarget, .inl ⟨herr, xs, used, hused, hsymbols, hqueued, hcount, hbits, hfirst, ?_⟩⟩
    exact hends.imp (fun ⟨hgoing, htaken⟩ => ⟨hgoing.dstate, htaken, hgoing.len, htarget ▸ hgoing.count⟩)
      fun ⟨hdone, hempty⟩ => ⟨hdone.dstate, hdone.count.trans htarget, hempty⟩
  · rw [length_byteBits] at hreached
    exact ⟨rfl, htarget, .inr ⟨rfl, rfl, rfl, BitVec.eq_of_toNat_eq hlen, hcount, hreached, hbits, hnoCode⟩⟩

end Sys2Proof.Proofs
end

section
/-! The packer's commands one by one (R200 to R202): what each refuses, in the order of its rule, and what EN_SYM adds to PKQ. -/

namespace Sys2Proof.Proofs

open Sys2Proof Sys2Proof.Machine Sys2Proof.Laws

variable {s : State} {x : Symbol}

/-! ### What EN_SYM adds to PKQ -/

/-- R203: AppendBit queues bytes behind those of PKQ. -/
theorem pkq_prefix_appendBit (p : Packer) (b : Bool) : p.pkq <+: (p.appendBit b).pkq := by
  by_cases hfull : p.accLen.toNat = 7
  · rw [appendBit_full b hfull]
    exact List.prefix_append _ _
  · rw [appendBit_partial b hfull]

theorem pkq_prefix_appendBits (p : Packer) (bs : List Bool) : p.pkq <+: (p.appendBits bs).pkq := by
  induction bs generalizing p with
  | nil => exact List.prefix_rfl
  | cons b bs ih => exact (pkq_prefix_appendBit p b).trans (ih _)

/-- R201: the bits completed go to PKQ by the byte and the rest stays pending. -/
theorem appendBits_lengths (p : Packer) (bs : List Bool) :
    (p.appendBits bs).pkq.length = p.pkq.length + (p.accLen.toNat + bs.length) / 8 ∧
    (p.appendBits bs).accLen.toNat = (p.accLen.toNat + bs.length) % 8 := by
  have hcount := appendBits_count p bs
  have hlt := (p.appendBits bs).accLen.isLt
  omega

/-! ### The refusals -/

theorem exec_enStart_unvalidated (herr : s.errcause = .noError) (hvalid : s.tableValid = false) :
    exec .enStart s = .next { s with errcause := .sequence } := by
  refine (gated_of_noError herr _ : execEnStart s = _).trans ?_
  rw [if_neg (by simp [hvalid]), raise_of_noError s _ herr]

theorem exec_enSym_closed (herr : s.errcause = .noError) (hactive : s.packer.active = false) :
    exec (.enSym x) s = .next { s with errcause := .sequence } := by
  refine (gated_of_noError herr _ : execEnSym x s = _).trans ?_
  dsimp only
  rw [if_pos (by simp [hactive]), raise_of_noError s _ herr]

theorem exec_enSym_missing (herr : s.errcause = .noError) (hactive : s.packer.active = true)
    (hlen : (s.entryOf x).len = 0) :
    exec (.enSym x) s = .next { s.abortEncode with errcause := .missingCode } := by
  refine (gated_of_noError herr _ : execEnSym x s = _).trans ?_
  dsimp only
  rw [if_neg (by simp [hactive]), if_pos hlen, raise_of_noError s.abortEncode _ herr]

theorem exec_enSym_full (herr : s.errcause = .noError) (hactive : s.packer.active = true)
    (hlen : (s.entryOf x).len ≠ 0)
    (hroom : (s.packer.accLen.toNat + (s.entryOf x).len.toNat) / 8 > s.config.pkDepth.val - s.packer.pkq.length) :
    exec (.enSym x) s = .next { s with errcause := .fifoOverflow } := by
  refine (gated_of_noError herr _ : execEnSym x s = _).trans ?_
  dsimp only
  rw [if_neg (by simp [hactive]), if_neg hlen, if_pos hroom, raise_of_noError s _ herr]

theorem exec_enFlush_closed (herr : s.errcause = .noError) (hactive : s.packer.active = false) :
    exec .enFlush s = .next { s with errcause := .sequence } := by
  refine (gated_of_noError herr _ : execEnFlush s = _).trans ?_
  rw [if_pos (by simp [hactive]), raise_of_noError s _ herr]

theorem exec_enFlush_full (herr : s.errcause = .noError) (hactive : s.packer.active = true)
    (hroom : s.packer.accLen ≠ 0 ∧ s.packer.pkq.length = s.config.pkDepth.val) :
    exec .enFlush s = .next { s with errcause := .fifoOverflow } := by
  refine (gated_of_noError herr _ : execEnFlush s = _).trans ?_
  rw [if_neg (by simp [hactive]), if_pos hroom, raise_of_noError s _ herr]

/-! ### The statements -/

/-- Settles O44: TABLE_VALID alone decides, and the new packer is empty. -/
theorem enStartOpensSession : Obligations.EnStartOpensSession := fun _ herr =>
  ⟨exec_enStart_unvalidated herr, fun hvalid => ⟨_, exec_enStart herr hvalid, rfl, rfl, rfl, rfl, rfl⟩⟩

/-- Settles O45: the packer appends the code bit by bit, and each bit moves the byte count as R203 says. -/
theorem enSymAppendsCode : Obligations.EnSymAppendsCode := by
  intro s x herr
  have hzero : (s.entryOf x).len.toNat = 0 ↔ (s.entryOf x).len = 0 := (BitVec.toNat_eq (y := 0)).symm
  refine ⟨exec_enSym_closed herr, fun hactive hlen => exec_enSym_missing herr hactive (hzero.mp hlen),
    fun hactive hlen => exec_enSym_full herr hactive (mt hzero.mpr hlen), fun hactive hlen hroom => ?_⟩
  have hcode : s.table.codeOf x ≠ [] := mt (code_eq_nil_iff _).mp (mt hzero.mpr hlen)
  obtain ⟨hpushed, hpending⟩ := appendBits_lengths s.packer (s.table.codeOf x)
  rw [CodeTable.codeOf, length_code] at hpushed hpending
  exact ⟨_, exec_enSym herr hactive hcode hroom, rfl, (appendBits_active _ _).trans hactive, appendBits_bits _ _,
    pkq_prefix_appendBits _ _, hpushed, hpending, fun hclean => appendBits_acc_lt hclean _⟩

/-- Settles O46: the last byte is ACC, whose bits from ACC_LEN on are 0 in a clean packer (R47). -/
theorem enFlushPadsAndCloses : Obligations.EnFlushPadsAndCloses := fun _ herr ⟨hacc, _⟩ =>
  ⟨exec_enFlush_closed herr, fun hactive hpending hfull => exec_enFlush_full herr hactive ⟨hpending, hfull⟩,
    fun hactive hroom => ⟨_, _, exec_enFlush herr hactive hroom, rfl, rfl, rfl, rfl, rfl, packsTo_pending hacc⟩⟩

end Sys2Proof.Proofs
end

section
/-! The unpacker's commands and its one-bit step, each said once (R220, R222, R223), and the moves of DSTATE they allow
(R224). -/

namespace Sys2Proof.Proofs

open Sys2Proof Sys2Proof.Machine Sys2Proof.Laws

variable {s : State} {t : CodeTable} {u v : Unpacker} {b : Bool} {bs : List Bool}

/-! ### DE_START and DE_END -/

theorem exec_deStart_unvalidated (herr : s.errcause = .noError) (hvalid : s.tableValid = false) :
    exec .deStart s = .next { s with errcause := .sequence } := by
  refine (gated_of_noError herr _ : execDeStart s = _).trans ?_
  rw [if_neg (by simp [hvalid]), raise_of_noError s _ herr]

theorem exec_deStart (herr : s.errcause = .noError) (hvalid : s.tableValid = true) :
    exec .deStart s = .next
      { s with unpacker := { dstate := if s.arg = 0 then .done else .accumulating
                             cand := 0, candLen := 0, decCount := 0, decTarget := s.arg, dkq := [] } } :=
  (gated_of_noError herr _ : execDeStart s = _).trans (if_pos hvalid)

theorem exec_deEnd_done (herr : s.errcause = .noError) (hdone : s.unpacker.dstate = .done) :
    exec .deEnd s = .next s :=
  (gated_of_noError herr _ : execDeEnd s = _).trans (if_pos hdone)

theorem exec_deEnd_closed (herr : s.errcause = .noError) (hdone : s.unpacker.dstate ≠ .done)
    (hopen : s.unpacker.dstate ≠ .accumulating) : exec .deEnd s = .next { s with errcause := .sequence } := by
  refine (gated_of_noError herr _ : execDeEnd s = _).trans ?_
  rw [if_neg hdone, if_pos hopen, raise_of_noError s _ herr]

theorem exec_deEnd_open (herr : s.errcause = .noError) (hopen : s.unpacker.dstate = .accumulating) :
    exec .deEnd s = .next { s.abortDecode with errcause := .truncated } := by
  refine (gated_of_noError herr _ : execDeEnd s = _).trans ?_
  rw [if_neg (by simp [hopen]), if_neg (not_not.mpr hopen), raise_of_noError s.abortDecode _ herr]

/-- Settles O48: TABLE_VALID alone decides, and ARG gives the new session its target and its DSTATE. -/
theorem deStartOpensSession : Obligations.DeStartOpensSession := fun _ herr =>
  ⟨exec_deStart_unvalidated herr, fun hvalid =>
    ⟨_, exec_deStart herr hvalid, rfl, rfl, rfl, rfl, rfl, rfl, fun h => if_pos h, fun h => if_neg h⟩⟩

/-- Settles O51: DSTATE alone decides, and AbortDecode discards the queue. -/
theorem deEndReportsTruncation : Obligations.DeEndReportsTruncation := by
  refine fun s herr => ⟨exec_deEnd_done herr, fun hclosed => ?_, exec_deEnd_open herr⟩
  rcases hclosed with h | h <;> exact exec_deEnd_closed herr (by simp [h]) (by simp [h])

/-! ### One bit -/

/-- Settles O49: the matcher finds the least symbol whose code the candidate now is, or there is none. -/
theorem decodeBitMatchesCandidate : Obligations.DecodeBitMatchesCandidate := by
  intro t u b hlen
  rcases decodeBit_code_cases t hlen b with ⟨z, hz, hleast, hok⟩ | ⟨hmiss, hstep⟩
  · refine ⟨fun x hx hx_least => ?_, fun hnone => absurd hz (hnone z)⟩
    obtain rfl : x = z := BitVec.eq_of_toNat_eq (Nat.le_antisymm (hx_least z hz) (hleast x (hx.trans hz.symm)))
    exact hok
  · exact ⟨fun x hx _ => absurd hx (hmiss x), fun _ => ⟨extended u b, extended_candBits hlen b, rfl, hstep⟩⟩

/-- R223 from any state: the bit leaves an empty candidate, or it joined the candidate and completed no code. -/
theorem decodeBit_empty_or_miss (t : CodeTable) (u : Unpacker) (b : Bool) :
    (∃ w, u.decodeBit t b = .ok w ∧ w.candLen = 0) ∨
    (u.candLen.toNat ≤ 254 ∧ (∀ x, t.codeOf x ≠ u.candBits ++ [b]) ∧
      u.decodeBit t b = if u.candLen.toNat = 254 then .overflow (extended u b) else .ok (extended u b)) := by
  by_cases hlen : u.candLen.toNat ≤ 254
  · exact (decodeBit_code_cases t hlen b).imp (fun ⟨_, _, _, hok⟩ => ⟨_, hok, rfl⟩) fun hmiss => ⟨hlen, hmiss⟩
  -- A 256th bit, which no run reaches, would wrap CAND_LEN to 0 (notes/assumptions/9.md).
  have hlast : u.candLen.toNat = 255 := by
    have := u.candLen.isLt
    omega
  rcases decodeBit_cases t u b with ⟨x, -, hok⟩ | ⟨-, hmiss⟩
  · exact .inl ⟨_, hok, rfl⟩
  · rw [hlast] at hmiss
    exact .inl ⟨_, hmiss, rfl⟩

/-- R223: only the 255th bit of a candidate overflows, when the candidate is no code. -/
theorem decodeBit_eq_overflow (h : u.decodeBit t b = .overflow v) :
    u.candLen.toNat = 254 ∧ v = extended u b ∧ ∀ x, t.codeOf x ≠ u.candBits ++ [b] := by
  rcases decodeBit_empty_or_miss t u b with ⟨w, hok, -⟩ | ⟨-, hmiss, hstep⟩
  · cases hok.symm.trans h
  · rw [hstep] at h
    split at h
    · exact ⟨‹_›, (BitStep.overflow.inj h).symm, hmiss⟩
    · cases h

/-- A bit that leaves a candidate joined it and completed no code (R223). -/
theorem decodeBit_eq_ok (h : u.decodeBit t b = .ok v) (hpending : v.candLen ≠ 0) :
    u.candLen.toNat ≤ 254 ∧ v = extended u b ∧ ∀ x, t.codeOf x ≠ u.candBits ++ [b] := by
  rcases decodeBit_empty_or_miss t u b with ⟨w, hok, hempty⟩ | ⟨hlen, hmiss, hstep⟩
  · obtain rfl := BitStep.ok.inj (hok.symm.trans h)
    exact absurd hempty hpending
  · rw [hstep] at h
    split at h
    · cases h
    · exact ⟨hlen, (BitStep.ok.inj h).symm, hmiss⟩

/-- The loop of DE_BYTE overflows in one way only, from whatever state it starts (R221, R223). -/
theorem overflowed_of_decodeBits (h : u.decodeBits t bs = .overflow v) (hshort : bs.length < 255) :
    Overflowed t u bs v := by
  induction bs generalizing u with
  | nil => cases h
  | cons b bs ih =>
    rw [List.length_cons] at hshort
    rcases decodeBits_cons_cases t u b bs with ⟨w, hw, hloop⟩ | ⟨w, hw, -, hloop⟩ | ⟨w, -, -, hloop⟩ <;>
      rw [hloop] at h
    · obtain rfl := BitStep.overflow.inj h
      obtain ⟨hfull, rfl, hmiss⟩ := decodeBit_eq_overflow hw
      exact overflowed_full hfull hmiss
    · have hover := ih h (Nat.lt_of_succ_lt hshort)
      have hpending : w.candLen ≠ 0 := fun hempty => by
        have hreached : 255 ≤ 0 + bs.length := by simpa [hempty] using hover.reached
        omega
      obtain ⟨hlen, rfl, hmiss⟩ := decodeBit_eq_ok hw hpending
      exact hover.of_extended hlen hmiss
    · cases h

/-! ### DSTATE -/

/-- A bit that does not overflow keeps DSTATE, or ends the session at DEC_TARGET (R223). -/
theorem decodeBit_dstate (h : u.decodeBit t b = .ok v) :
    v.decTarget = u.decTarget ∧ (v.dstate = u.dstate ∨ v.dstate = .done ∧ v.decCount = u.decTarget) := by
  rcases decodeBit_cases t u b with ⟨x, -, hok⟩ | ⟨-, hmiss⟩
  · obtain rfl := BitStep.ok.inj (hok.symm.trans h)
    refine ⟨rfl, ?_⟩
    dsimp only
    split
    · next hlast => exact .inr ⟨rfl, hlast⟩
    · exact .inl rfl
  · rw [hmiss] at h
    split at h
    · cases h
    · obtain rfl := BitStep.ok.inj h
      exact ⟨rfl, .inl rfl⟩

theorem decodeBits_dstate (h : u.decodeBits t bs = .ok v) :
    v.dstate = u.dstate ∨ v.dstate = .done ∧ v.decCount = u.decTarget := by
  induction bs generalizing u with
  | nil => exact .inl (BitStep.ok.inj h ▸ rfl)
  | cons b bs ih =>
    rcases decodeBits_cons_cases t u b bs with ⟨w, -, hloop⟩ | ⟨w, hw, hopen, hloop⟩ | ⟨w, hw, -, hloop⟩ <;>
      rw [hloop] at h
    · cases h
    · obtain ⟨htarget, hstate | ⟨hdone, -⟩⟩ := decodeBit_dstate hw
      · exact htarget ▸ hstate ▸ ih h
      · cases hdone.symm.trans hopen
    · exact (decodeBit_dstate (hw.trans h)).2

/-- A gated command that changed DSTATE was not discarded (R98). -/
theorem noError_of_dstate_ne {i : Instr} {s' : State} (hi : i.isGated = true) (h : exec i s = .next s')
    (hchange : s'.unpacker.dstate ≠ s.unpacker.dstate) : s.errcause = .noError := by
  by_contra herr
  rw [exec_of_isGated hi herr] at h
  injection h with h
  exact hchange (h ▸ rfl)

/-- R224: DE_END changes DSTATE in ACCUMULATING only. -/
theorem deEnd_open_of_dstate_ne {s' : State} (h : exec .deEnd s = .next s')
    (hchange : s'.unpacker.dstate ≠ s.unpacker.dstate) : s.unpacker.dstate = .accumulating := by
  have herr := noError_of_dstate_ne rfl h hchange
  by_contra hopen
  by_cases hdone : s.unpacker.dstate = .done
  · rw [exec_deEnd_done herr hdone] at h
    injection h with h
    exact hchange (h ▸ rfl)
  · rw [exec_deEnd_closed herr hdone hopen] at h
    injection h with h
    exact hchange (h ▸ rfl)

/-- Settles O52: only SOFT_RESET and the unpacker's own commands write DSTATE, each along its rows. -/
theorem decoderFollowsTransitionTable : Obligations.DecoderFollowsTransitionTable := by
  intro i s s' h hchange
  have hraise : ∀ {w : State} (e : ErrCause), s.errcause = .noError → w.errcause = s.errcause →
      (w.raise e).errcause = e := fun e herr hw => by rw [raise_errcause, if_pos (hw.trans herr)]
  cases exec_effect h with
  | softReset => exact rfl
  | deStart hvalid =>
    by_cases harg : s.arg = 0
    · simp only [if_pos harg]
      exact .inl ⟨trivial, hvalid, harg⟩
    · simp only [if_neg harg]
      exact ⟨trivial, hvalid, harg⟩
  | deByte byte v hopen _ hv =>
    rcases decodeBits_dstate hv with hsame | ⟨hdone, hcount⟩
    · exact absurd hsame hchange
    · simp only [hdone]
      exact .inr ⟨⟨byte, rfl⟩, hopen, hcount⟩
  | deOverflow byte v hopen hv =>
    have herr := noError_of_dstate_ne rfl h hchange
    have hover := overflowed_of_decodeBits hv (by rw [length_byteBits]; decide)
    simp only [raise_unpacker, abortDecode_unpacker]
    exact ⟨hopen, trivial, .inr ⟨⟨byte, rfl⟩, hraise _ herr rfl, BitVec.eq_of_toNat_eq hover.len⟩⟩
  | deEnd =>
    have herr := noError_of_dstate_ne rfl h hchange
    simp only [raise_unpacker, abortDecode_unpacker]
    exact ⟨deEnd_open_of_dstate_ne h hchange, trivial, .inl ⟨trivial, hraise _ herr rfl⟩⟩
  | _ => exact absurd (by simp) hchange

end Sys2Proof.Proofs
end

section
/-! Error entry (R254, R255): what a command that raises an error leaves behind, one outcome per cause. -/

namespace Sys2Proof.Proofs

open Sys2Proof Sys2Proof.Machine Sys2Proof.Laws

variable {s : State} {i : Instr}

/-- What a command makes of a state with no error recorded, as far as it raises one: the abort effects of each cause. -/
inductive ErrorEntry (s : State) : Instr → State → Prop
  /-- The command raised no error. -/
  | noneRaised {i : Instr} {t : State} (h : t.errcause = .noError) : ErrorEntry s i t
  /-- A cause without abort effects (R255). -/
  | refused {i : Instr} {e : ErrCause} (he : e = .sequence ∨ e = .lenOverflow ∨ e = .fifoOverflow) :
      ErrorEntry s i { s with errcause := e }
  | missingCode {i : Instr} : ErrorEntry s i { s.abortEncode with errcause := .missingCode }
  /-- CT_VALIDATE checks the table as it is, CA_ASSIGN the table that it wrote (R170, R176). -/
  | invalidTable {i : Instr} {u : State} (hu : i ≠ .caAssign → u = s) :
      ErrorEntry s i { u with errcause := .invalidTable, tableValid := false }
  | truncated {i : Instr} : ErrorEntry s i { s.abortDecode with errcause := .truncated }
  | candOverflow {byte : Byte} {v : Unpacker} (hv : Overflowed s.table s.unpacker (byteBits byte) v) :
      ErrorEntry s (.deByte byte) (afterLoop s (.overflow v))

/-! ### The control operations -/

/-- R252: a check that fails with a cause without abort effects. -/
theorem errorEntry_check (herr : s.errcause = .noError) {p : Prop} [Decidable p] {e : ErrCause} {r : Result}
    (he : e = .sequence ∨ e = .lenOverflow ∨ e = .fifoOverflow) (h : ¬ p → EndsIn (ErrorEntry s i) r) :
    EndsIn (ErrorEntry s i) (if p then .next (s.raise e) else r) :=
  endsIn_ite (fun _ => endsIn_next (raise_of_noError s e herr ▸ .refused he)) h

/-- R252: a condition whose failure is a SEQUENCE error. -/
theorem errorEntry_guard (herr : s.errcause = .noError) {p : Prop} [Decidable p] {r : Result}
    (h : p → EndsIn (ErrorEntry s i) r) : EndsIn (ErrorEntry s i) (if p then r else .next (s.raise .sequence)) :=
  endsIn_ite h fun _ => endsIn_next (raise_of_noError s _ herr ▸ .refused (.inl rfl))

theorem errorEntry_gated (herr : s.errcause = .noError) {body : State → Result}
    (h : EndsIn (ErrorEntry s i) (body s)) : EndsIn (ErrorEntry s i) (s.gated body) :=
  endsIn_gated (.noneRaised herr) h

/-- The gate and the session guard before a table-writing command (R181). -/
theorem errorEntry_tableWrite (herr : s.errcause = .noError) {body : State → Result}
    (h : EndsIn (ErrorEntry s i) (body s)) : EndsIn (ErrorEntry s i) (s.gated fun s => s.guarded body) :=
  errorEntry_gated herr (endsIn_guarded (raise_of_noError s _ herr ▸ .refused (.inl rfl)) fun _ => h)

theorem errorEntry_validateTable {u : State} (herr : u.errcause = .noError) (hu : i ≠ .caAssign → u = s) :
    ErrorEntry s i u.validateTable := by
  rw [validateTable_of_noError herr]
  cases u.table.valid with
  | true => exact .noneRaised rfl
  | false => exact .invalidTable hu

/-! ### The commands -/

theorem execEnSym_errorEntry (herr : s.errcause = .noError) (x : Symbol) :
    EndsIn (ErrorEntry s (.enSym x)) (execEnSym x s) :=
  errorEntry_gated herr <| errorEntry_check herr (.inl rfl) fun _ =>
    endsIn_ite (fun _ => endsIn_next (raise_of_noError s.abortEncode _ herr ▸ .missingCode)) fun _ =>
      errorEntry_check herr (.inr (.inr rfl)) fun _ => endsIn_next (.noneRaised herr)

theorem execDeByte_errorEntry (herr : s.errcause = .noError) (byte : Byte) :
    EndsIn (ErrorEntry s (.deByte byte)) (execDeByte byte s) := by
  refine errorEntry_gated herr (endsIn_ite (fun _ => endsIn_next (.noneRaised herr)) fun _ =>
    errorEntry_check herr (.inl rfl) fun _ => errorEntry_check herr (.inr (.inr rfl)) fun _ => ?_)
  cases hv : s.unpacker.decodeBits s.table (byteBits byte) with
  | ok v => exact endsIn_next (.noneRaised herr)
  | overflow v =>
    refine endsIn_next ?_
    rw [raise_of_noError ({ s with unpacker := v } : State).abortDecode _ herr]
    exact .candOverflow (overflowed_of_decodeBits hv (by rw [length_byteBits]; decide))

/-- Everything a command can raise, and what it then did. -/
theorem exec_errorEntry {t : State} (herr : s.errcause = .noError) (h : exec i s = .next t) : ErrorEntry s i t := by
  refine (?_ : EndsIn (ErrorEntry s i) (exec i s)) t h
  unfold exec
  cases i with
  | softReset | clrErr => exact endsIn_next (.noneRaised rfl)
  | nop | fcRead | tbReadw | tbReadn | ctReadlen | ctReadbits => exact endsIn_next (.noneRaised herr)
  | fcClear | tbBuild => exact errorEntry_gated herr (endsIn_next (.noneRaised herr))
  | fcCount | fcSet =>
    exact errorEntry_gated herr (errorEntry_check herr (.inr (.inl rfl)) fun _ => endsIn_next (.noneRaised herr))
  | ctClear | ctSetlen | ctSetbits => exact errorEntry_tableWrite herr (endsIn_next (.noneRaised herr))
  | caAssign =>
    exact errorEntry_tableWrite herr (errorEntry_guard herr fun _ =>
      endsIn_next (errorEntry_validateTable herr fun hne => absurd rfl hne))
  | ctValidate => exact errorEntry_tableWrite herr (endsIn_next (errorEntry_validateTable herr fun _ => rfl))
  | enStart | deStart => exact errorEntry_gated herr (errorEntry_guard herr fun _ => endsIn_next (.noneRaised herr))
  | enSym x => exact execEnSym_errorEntry herr x
  | enFlush =>
    exact errorEntry_gated herr (errorEntry_check herr (.inl rfl) fun _ =>
      errorEntry_check herr (.inr (.inr rfl)) fun _ => endsIn_next (.noneRaised herr))
  | deByte byte => exact execDeByte_errorEntry herr byte
  | deEnd =>
    exact errorEntry_gated herr (endsIn_ite (fun _ => endsIn_next (.noneRaised herr)) fun _ =>
      errorEntry_check herr (.inl rfl) fun _ =>
        endsIn_next (raise_of_noError s.abortDecode _ herr ▸ .truncated))

/-- R223: CAND_OVERFLOW writes DSTATE, DKQ and the candidate of the unpacker alone. -/
theorem Overflowed.afterLoop_eq {t : CodeTable} {bs : List Bool} {v : Unpacker} (h : Overflowed t s.unpacker bs v) :
    afterLoop s (.overflow v) =
      { s with errcause := .candOverflow,
               unpacker := { s.unpacker with dstate := .failed, dkq := [], candLen := 255, cand := v.cand } } := by
  have hlen : v.candLen = 255 := BitVec.eq_of_toNat_eq h.len
  simp only [afterLoop, hlen, h.count, h.target]

/-- Settles O23: each cause comes with the abort effects of its entry in R255. -/
theorem errorEntryIsPrecise : Obligations.ErrorEntryIsPrecise := by
  intro i s t herr h hraised
  cases exec_errorEntry herr h with
  | noneRaised hnone => exact absurd hnone hraised
  | refused he => rcases he with rfl | rfl | rfl <;> rfl
  | missingCode | truncated => rfl
  | invalidTable hu => exact fun hne => hu hne ▸ rfl
  | @candOverflow byte v hv => exact ⟨hv.afterLoop_eq, byte, rfl, hv.bits⟩

end Sys2Proof.Proofs
end

section
/-! A decode session along a known stream (R221 to R223, R225).  While the bits to come are the codes of the symbols still
owed, then padding, each code ends exactly where the matcher first finds one, because no code begins another (R177). -/

namespace Sys2Proof.Proofs

open Sys2Proof Sys2Proof.Machine Sys2Proof.Laws

variable {s : State} {t : CodeTable} {u v : Unpacker} {y : Symbol} {ys : List Symbol} {bits bs more pad : List Bool}

/-! ### The bits of a stream -/

/-- The candidate and the `bits` to come are the codes of the symbols `ys` that the session still owes, then `pad`; the
candidate has not reached the end of the first of these codes. -/
structure Awaits (t : CodeTable) (u : Unpacker) (ys : List Symbol) (bits pad : List Bool) : Prop where
  accumulates : Accumulates u
  owed : u.decCount.toNat + ys.length = u.decTarget.toNat
  codes : ∀ y ∈ ys, t.codeOf y ≠ []
  stream : u.candBits ++ bits = t.bitstream ys ++ pad
  pending : ∀ y zs, ys = y :: zs → u.candLen.toNat < (t.codeOf y).length

theorem length_codeOf_le (t : CodeTable) (x : Symbol) : (t.codeOf x).length ≤ 255 := by
  rw [CodeTable.codeOf, length_code]
  exact Nat.le_of_lt_succ (BitVec.isLt _)

/-- A session in progress owes a symbol (R48). -/
theorem Awaits.exists_cons (h : Awaits t u ys bits pad) : ∃ y zs, ys = y :: zs := by
  refine List.exists_cons_of_ne_nil fun hnil => ?_
  have howed := h.owed
  have hcount := h.accumulates.count
  rw [hnil, List.length_nil] at howed
  omega

/-- The stream cannot end in a session that has not got all its codes. -/
theorem Awaits.bits_ne_nil (h : Awaits t u ys bits pad) : bits ≠ [] := by
  rintro rfl
  obtain ⟨y, zs, rfl⟩ := h.exists_cons
  have hpending := h.pending y zs rfl
  have hlength := congrArg List.length h.stream
  rw [bitstream_cons, List.append_nil, length_candBits, List.length_append, List.length_append] at hlength
  omega

/-- The next bit goes on with the first code owed, and no shorter code ends there (R177). -/
theorem Awaits.candBits_prefix {b : Bool} (h : Awaits t u (y :: ys) (b :: bs) pad) : u.candBits ++ [b] <+: t.codeOf y := by
  have hstream := h.stream
  have hpending := h.pending y ys rfl
  rw [List.append_cons, bitstream_cons, List.append_assoc _ _ pad] at hstream
  refine List.prefix_of_prefix_length_le ⟨bs, hstream⟩ (List.prefix_append ..) ?_
  simpa using hpending

/-- R177: the symbol whose code the candidate completes is the first one owed. -/
theorem Awaits.eq_of_code {b : Bool} {x : Symbol} (hfree : t.PrefixFree) (h : Awaits t u (y :: ys) (b :: bs) pad)
    (hx : t.codeOf x = u.candBits ++ [b]) : x = y := by
  by_contra hne
  exact hfree x y hne (by simp [hx]) (h.codes y (.head ys)) (hx ▸ h.candBits_prefix)

/-- Behind a bit that completes the first code owed, the other codes and the padding are still to come. -/
theorem Awaits.stream_tail {b : Bool} (h : Awaits t u (y :: ys) (b :: bs) pad) (hy : t.codeOf y = u.candBits ++ [b]) :
    bs = t.bitstream ys ++ pad := by
  have hstream := h.stream
  rw [List.append_cons, bitstream_cons, hy, List.append_assoc (_ ++ _)] at hstream
  exact List.append_cancel_left hstream

/-- A symbol queued and the session going on: the rest of its symbols is owed. -/
theorem Awaits.after_emitted {b : Bool} (h : Awaits t u (y :: ys) (b :: bs) pad) (hy : t.codeOf y = u.candBits ++ [b])
    (hopen : Accumulates (emitted u y)) : Awaits t (emitted u y) ys bs pad where
  accumulates := hopen
  owed := by
    have howed := h.owed
    rw [List.length_cons] at howed
    rw [h.accumulates.emitted_decCount]
    exact (Nat.succ_add_eq_add_succ ..).trans howed
  codes z hz := h.codes z (.tail y hz)
  stream := h.stream_tail hy
  pending z zs hz := List.length_pos_of_ne_nil (h.codes z (hz ▸ .tail y (.head zs)))

/-- A bit of the first code owed that does not complete it. -/
theorem Awaits.after_extended {b : Bool} (h : Awaits t u (y :: ys) (b :: bs) pad)
    (hmiss : t.codeOf y ≠ u.candBits ++ [b]) (hopen : Accumulates (extended u b)) : Awaits t (extended u b) (y :: ys) bs pad where
  accumulates := hopen
  owed := h.owed
  codes := h.codes
  stream := by
    rw [extended_candBits h.accumulates.len, ← List.append_cons]
    exact h.stream
  pending z zs hz := by
    obtain ⟨rfl, -⟩ := List.cons.inj hz
    rw [toNat_extended_candLen h.accumulates.len]
    refine Nat.lt_of_not_le fun hle => hmiss ?_
    exact (h.candBits_prefix.eq_of_length_le (by simpa using hle)).symm

/-- Where a session stands on its stream: symbols are owed, or all were given and only padding is left. -/
inductive OnStream (t : CodeTable) (u : Unpacker) (ys : List Symbol) (bits pad : List Bool) : Prop
  | awaits (h : Awaits t u ys bits pad)
  | finished (hstate : u.dstate = .done) (hgiven : ys = []) (hbits : bits.length ≤ pad.length)

/-- The session over with its last symbol: the bits behind that symbol's code are the padding. -/
theorem Awaits.last_emitted {b : Bool} (h : Awaits t u (y :: ys) (b :: bs) pad) (hy : t.codeOf y = u.candBits ++ [b])
    (hlast : Finished (emitted u y)) : ys = [] ∧ bs = pad := by
  have howed := h.owed
  have hcount : (emitted u y).decCount.toNat = u.decTarget.toNat := congrArg BitVec.toNat hlast.count
  rw [h.accumulates.emitted_decCount] at hcount
  rw [List.length_cons] at howed
  obtain rfl : ys = [] := List.length_eq_zero_iff.mp (by omega)
  exact ⟨rfl, h.stream_tail hy⟩

/-- The loop of DE_BYTE along the stream (R221): it queues the first symbols owed and overflows nowhere. -/
theorem Awaits.decodeBits_spec (hfree : t.PrefixFree) (h : Awaits t u ys (bs ++ more) pad) :
    ∃ v done rest, u.decodeBits t bs = .ok v ∧ v.dkq = u.dkq ++ done ∧ ys = done ++ rest ∧
      OnStream t v rest more pad := by
  induction bs generalizing u ys with
  | nil => exact ⟨u, [], ys, rfl, (List.append_nil _).symm, rfl, .awaits h⟩
  | cons b bs ih =>
    obtain ⟨y, zs, rfl⟩ := h.exists_cons
    rcases decodeBits_cons_code_cases t h.accumulates b bs with
      ⟨x, hx, -, hcode⟩ | ⟨hmiss, ⟨hfull, -⟩ | ⟨hopen, hloop⟩⟩
    · obtain rfl := h.eq_of_code hfree hx
      rcases hcode with ⟨hlast, hloop⟩ | ⟨hopen, hloop⟩ <;> rw [hloop]
      · obtain ⟨rfl, rfl⟩ := h.last_emitted hx hlast
        exact ⟨_, [x], [], rfl, rfl, rfl, .finished hlast.dstate rfl (by simp)⟩
      · obtain ⟨v, done, rest, hv, hqueued, rfl, hon⟩ := ih (h.after_emitted hx hopen)
        exact ⟨v, x :: done, rest, hv, hqueued.trans (List.append_assoc ..), rfl, hon⟩
    · -- A code is at most 255 bits long, so the 255th bit would have completed it.
      have hlen := length_codeOf_le t y
      refine absurd (h.candBits_prefix.eq_of_length_le ?_).symm (hmiss y)
      simpa [hfull] using hlen
    · rw [hloop]
      exact ih (h.after_extended (hmiss y) hopen)

/-! ### The commands of a session -/

/-- R102: draining DKQ gives all its symbols, in order, and leaves it empty. -/
theorem drainDk_eq (s : State) :
    drainDk s = (s.unpacker.dkq, { s with unpacker := { s.unpacker with dkq := [] } }) := by
  unfold drainDk
  generalize hq : s.unpacker.dkq = q
  induction q generalizing s with
  | nil =>
    have hpop : readReg dkOutOffset s = (0#32, s) := popDk_nil hq
    simp only [drain, hpop, ← hq]
    rfl
  | cons x q ih =>
    have hpop : readReg dkOutOffset s = (validEntry x, { s with unpacker := { s.unpacker with dkq := q } }) :=
      popDk_cons hq
    simp only [drain, hpop, validEntry_valid, validEntry_byte, if_true]
    rw [List.length_cons, ih _ rfl]

/-- A decode session along its stream, DKQ drained. -/
structure Decoding (t : CodeTable) (s : State) (ys : List Symbol) (bits pad : List Bool) : Prop where
  noError : s.errcause = .noError
  table : s.table = t
  drained : s.unpacker.dkq = []
  onStream : OnStream t s.unpacker ys bits pad

/-- A session's place on its stream does not depend on DKQ. -/
theorem OnStream.drain (h : OnStream t u ys bits pad) : OnStream t { u with dkq := [] } ys bits pad := by
  cases h with
  | awaits h =>
    obtain ⟨⟨hstate, hcand, hcount, hlen⟩, howed, hcodes, hstream, hpending⟩ := h
    exact .awaits ⟨⟨hstate, hcand, hcount, hlen⟩, howed, hcodes, hstream, hpending⟩
  | finished hstate hgiven hbits => exact .finished hstate hgiven hbits

/-- R221: one byte of the stream and DRAIN_DK; an empty DKQ of any legal depth has room for the byte's symbols. -/
theorem Decoding.drainDk_deByte (hfree : t.PrefixFree) {p : Byte} (h : Decoding t s ys (byteBits p ++ more) pad) :
    ∃ rest, ys = (drainDk (runCommand (.deByte p) s)).1 ++ rest ∧
      Decoding t (drainDk (runCommand (.deByte p) s)).2 rest more pad := by
  obtain ⟨herr, rfl, hdrained, hon⟩ := h
  cases hon with
  | awaits h =>
    have hroom : ¬ s.config.dkDepth.val - s.unpacker.dkq.length < 8 := by
      have hdepth := s.config.dkDepth.property
      rw [hdrained, List.length_nil]
      omega
    obtain ⟨v, done, rest, hv, hqueued, rfl, hon⟩ := h.decodeBits_spec hfree
    rw [runCommand_of_exec (exec_deByte_open (s := { s with busy := true }) herr h.accumulates.dstate hroom p), hv,
      drainDk_eq]
    rw [hdrained] at hqueued
    exact ⟨rest, congrArg (· ++ rest) hqueued.symm, herr, rfl, rfl, hon.drain⟩
  | finished hstate hgiven hbits =>
    rw [runCommand_of_exec (exec_deByte_done (s := { s with busy := true }) herr hstate p), drainDk_eq]
    refine ⟨[], hgiven.trans (congrArg (· ++ []) hdrained.symm), herr, rfl, rfl, .finished hstate rfl ?_⟩
    rw [List.length_append] at hbits
    omega

/-- The packed bytes one after the other: the symbols drained are the first ones owed. -/
theorem Decoding.decodePacked_spec (hfree : t.PrefixFree) {ps : List Byte}
    (h : Decoding t s ys (ps.flatMap byteBits ++ more) pad) :
    ∃ rest, ys = (decodePacked ps s).1 ++ rest ∧ Decoding t (decodePacked ps s).2 rest more pad := by
  induction ps generalizing s ys with
  | nil => exact ⟨ys, rfl, h⟩
  | cons p ps ih =>
    rw [List.flatMap_cons, List.append_assoc] at h
    obtain ⟨rest, hfirst, hnext⟩ := h.drainDk_deByte hfree
    obtain ⟨rest', hlater, hlast⟩ := ih hnext
    refine ⟨rest', ?_, hlast⟩
    rw [hfirst, hlater, ← List.append_assoc]
    rfl

/-- The unpacker that DE_START leaves (R220), with the whole stream to come. -/
theorem onStream_opened {n : Word} (hn : n.toNat = ys.length) (hcodes : ∀ y ∈ ys, t.codeOf y ≠ [])
    (hbits : bits = t.bitstream ys ++ pad) :
    OnStream t
      { dstate := if n = 0 then .done else .accumulating, cand := 0, candLen := 0, decCount := 0, decTarget := n
        dkq := [] }
      ys bits pad := by
  cases ys with
  | nil =>
    have hzero : n = 0 := BitVec.eq_of_toNat_eq hn
    exact .finished (if_pos hzero) rfl (congrArg List.length hbits).le
  | cons y ys =>
    have hpos : 0 < n.toNat := hn ▸ Nat.succ_pos _
    have hne : n ≠ 0 := fun h0 => Nat.ne_of_gt hpos (h0 ▸ rfl)
    exact .awaits
      { accumulates := ⟨if_neg hne, Nat.one_pos, hpos, Nat.zero_le _⟩
        owed := (Nat.zero_add _).trans hn.symm
        codes := hcodes
        stream := hbits
        pending := fun z zs hz => List.length_pos_of_ne_nil (hcodes z (hz ▸ .head zs)) }

/-- SETARG and DE_START (R220) put a session at the beginning of its stream. -/
theorem decoding_deStart (herr : s.errcause = .noError) (hvalid : s.tableValid = true) {n : Word}
    (hn : n.toNat = ys.length) (hcodes : ∀ y ∈ ys, s.table.codeOf y ≠ []) (hbits : bits = s.table.bitstream ys ++ pad) :
    Decoding s.table (runCommand .deStart { s with arg := n }) ys bits pad := by
  rw [runCommand_of_exec (exec_deStart (s := { s with arg := n, busy := true }) herr hvalid)]
  exact ⟨herr, rfl, rfl, onStream_opened hn hcodes hbits⟩

/-- DECODE (R102) up to its DE_END. -/
theorem decodeStream_eq (n : Word) (ps : List Byte) (s : State) :
    decodeStream n ps s =
      ((decodePacked ps (runCommand .deStart { s with arg := n })).1,
        runCommand .deEnd (decodePacked ps (runCommand .deStart { s with arg := n })).2) := by
  have harg : perform (setArg n) s = .next { s with arg := n } := perform_write_word n s rfl
  simp only [decodeStream, harg, Result.stateOr]

end Sys2Proof.Proofs
end

section
/-! The round trip (R225): the drained bytes of an encode session are the stream of a decode session under the same table. -/

namespace Sys2Proof.Proofs

open Sys2Proof Sys2Proof.Machine Sys2Proof.Laws

variable {s s' : State} {t : CodeTable} {ys : List Symbol} {bits more pad : List Bool} {bytes : List Byte}

/-! ### The encode session -/

/-- The two states have the same code table, validated or not. -/
def SameTable (s s' : State) : Prop := s'.table = s.table ∧ s'.tableValid = s.tableValid

theorem SameTable.trans {s'' : State} (h : SameTable s s') (h' : SameTable s' s'') : SameTable s s'' :=
  ⟨h'.1.trans h.1, h'.2.trans h.2⟩

theorem sameTable_runCommand {i : Instr} (hi : i ≠ .softReset) (hw : isTableWrite i = false) (s : State) :
    SameTable s (runCommand i s) := by
  obtain ⟨t, ht⟩ := exec_answers_next i { s with busy := true }
  rw [runCommand_of_exec ht]
  have hsame : SameTable { s with busy := true } t := effect_table (exec_effect ht) hi hw
  exact hsame

theorem sameTable_drainPk (s : State) : SameTable s (drainPk s).2 := by
  rw [drainPk_eq]
  exact ⟨rfl, rfl⟩

theorem sameTable_encodeSymbols (xs : List Symbol) (s : State) : SameTable s (encodeSymbols xs s).2 := by
  induction xs generalizing s with
  | nil => exact ⟨rfl, rfl⟩
  | cons x xs ih =>
    have hsym : SameTable s (runCommand (.enSym x) s) := sameTable_runCommand (by simp) rfl s
    exact (hsym.trans (sameTable_drainPk _)).trans (ih _)

/-- R200 to R202: an encode session writes no code. -/
theorem sameTable_encodeStream (xs : List Symbol) (s : State) : SameTable s (encodeStream xs s).2 := by
  have hstart : SameTable s (runCommand .enStart s) := sameTable_runCommand (by simp) rfl s
  have hsymbols := hstart.trans (sameTable_encodeSymbols xs _)
  exact (hsymbols.trans (sameTable_runCommand (by simp) rfl _)).trans (sameTable_drainPk _)

@[simp] theorem length_flatMap_byteBits (bytes : List Byte) : (bytes.flatMap byteBits).length = 8 * bytes.length := by
  simp [List.length_flatMap, Nat.mul_comm]

/-- Bit k of a byte string is bit k mod 8 of byte k div 8 (R64). -/
theorem getElem?_flatMap_byteBits {k : Nat} (hk : k < 8 * bytes.length) :
    (bytes.flatMap byteBits)[k]? = some ((bytes[k / 8]?.getD 0).getLsbD (k % 8)) := by
  induction bytes generalizing k with
  | nil => exact absurd hk (Nat.not_lt_zero k)
  | cons b bytes ih =>
    rw [List.length_cons] at hk
    rw [List.flatMap_cons]
    by_cases hfirst : k < 8
    · rw [List.getElem?_append_left (by simpa using hfirst), getElem?_byteBits b k hfirst, Nat.div_eq_of_lt hfirst,
        Nat.mod_eq_of_lt hfirst]
      rfl
    · rw [List.getElem?_append_right (by simpa using hfirst), length_byteBits, ih (by omega),
        show k / 8 = (k - 8) / 8 + 1 by omega, show k % 8 = (k - 8) % 8 by omega, List.getElem?_cons_succ]

/-- R64: the bits of the bytes are the packed bits and less than a byte of padding. -/
theorem bits_eq_of_packsTo (h : PacksTo bytes bits) : ∃ pad, bytes.flatMap byteBits = bits ++ pad ∧ pad.length < 8 := by
  obtain ⟨hlen, hbits⟩ := h
  have hle : bits.length ≤ 8 * bytes.length := by omega
  have hprefix : bits <+: bytes.flatMap byteBits := by
    refine List.prefix_iff_getElem?.mpr fun k hk => ?_
    rw [getElem?_flatMap_byteBits (by omega), hbits k (by omega), List.getElem?_eq_getElem hk]
    rfl
  obtain ⟨pad, hpad⟩ := hprefix
  refine ⟨pad, hpad.symm, ?_⟩
  have htotal := congrArg List.length hpad
  rw [List.length_append, length_flatMap_byteBits] at htotal
  omega

/-! ### The decode session -/

/-- R225: DECODE along the stream gives the first symbols owed and ends with DE_END at the place reached. -/
theorem decodeStream_along (herr : s.errcause = .noError) (hvalid : s.tableValid = true) (hchecked : s.TableChecked)
    (hcodes : ∀ y ∈ ys, s.table.codeOf y ≠ []) (hlen : ys.length < 2 ^ 32)
    (hstream : bytes.flatMap byteBits ++ more = s.table.bitstream ys ++ pad) :
    ∃ rest u, ys = (decodeStream (BitVec.ofNat 32 ys.length) bytes s).1 ++ rest ∧ Decoding s.table u rest more pad ∧
      (decodeStream (BitVec.ofNat 32 ys.length) bytes s).2 = runCommand .deEnd u := by
  rw [decodeStream_eq]
  have hopened := decoding_deStart herr hvalid (n := BitVec.ofNat 32 ys.length) (Nat.mod_eq_of_lt hlen) hcodes hstream
  obtain ⟨rest, hgiven, hreached⟩ := hopened.decodePacked_spec (prefixFree_of_valid (hchecked hvalid))
  exact ⟨rest, _, hgiven, hreached, rfl⟩

/-- At the end of its stream a session is DONE, and DE_END succeeds (R222). -/
theorem Decoding.deEnd_at_end (h : Decoding t s ys [] pad) :
    ys = [] ∧ (runCommand .deEnd s).errcause = .noError ∧ (runCommand .deEnd s).unpacker.dstate = .done := by
  obtain ⟨herr, -, -, hon⟩ := h
  cases hon with
  | awaits h => exact absurd rfl h.bits_ne_nil
  | finished hstate hgiven _ =>
    rw [runCommand_of_exec (exec_deEnd_done (s := { s with busy := true }) herr hstate)]
    exact ⟨hgiven, herr, hstate⟩

/-- While more than the padding is still to come, DE_END reports TRUNCATED (R222). -/
theorem Decoding.deEnd_before_end (h : Decoding t s ys more pad) (hshort : pad.length < more.length) :
    (runCommand .deEnd s).errcause = .truncated ∧ (runCommand .deEnd s).unpacker.dstate = .failed ∧
      (runCommand .deEnd s).unpacker.dkq = [] := by
  obtain ⟨herr, -, -, hon⟩ := h
  cases hon with
  | awaits h =>
    rw [runCommand_of_exec (exec_deEnd_open (s := { s with busy := true }) herr h.accumulates.dstate)]
    exact ⟨rfl, rfl, rfl⟩
  | finished _ _ hbits => exact absurd hshort (Nat.not_lt.mpr hbits)

/-! ### The statements -/

/-- What an encode session leaves to a decode session: its bytes' bits and a state in which DE_START runs under the table. -/
theorem encodeStream_stream {xs : List Symbol} (herr : s.errcause = .noError) (hvalid : s.tableValid = true)
    (hcodes : ∀ x ∈ xs, s.table.codeOf x ≠ []) :
    (encodeStream xs s).2.errcause = .noError ∧ SameTable s (encodeStream xs s).2 ∧
      ∃ pad, (encodeStream xs s).1.flatMap byteBits = s.table.bitstream xs ++ pad ∧ pad.length < 8 := by
  obtain ⟨hpacks, hnone, -, -⟩ := encodeSessionPacksBitstream s xs herr hvalid hcodes
  exact ⟨hnone, sameTable_encodeStream xs s, bits_eq_of_packsTo hpacks⟩

/-- Settles O53: the stream of the decoder is the codes of the input, the packer's padding and the bytes that follow. -/
theorem decodeInvertsEncodeSession : Obligations.DecodeInvertsEncodeSession := by
  intro s xs extra herr hvalid hchecked hcodes hlen
  obtain ⟨hnone, ⟨htable, htableValid⟩, pad, hbits, -⟩ := encodeStream_stream herr hvalid hcodes
  have hstream : ((encodeStream xs s).1 ++ extra).flatMap byteBits ++ [] =
      (encodeStream xs s).2.table.bitstream xs ++ (pad ++ extra.flatMap byteBits) := by
    rw [htable, List.append_nil, List.flatMap_append, hbits, List.append_assoc]
  obtain ⟨rest, u, hgiven, hreached, hend⟩ := decodeStream_along hnone (htableValid.trans hvalid)
    (fun _ => htable ▸ hchecked hvalid) (htable ▸ hcodes) hlen hstream
  obtain ⟨rfl, hnoError, hdone⟩ := hreached.deEnd_at_end
  dsimp only
  rw [hend]
  exact ⟨(hgiven.trans (List.append_nil _)).symm, hnoError, hdone⟩

/-- Settles O54: a byte left out holds more bits than there is padding, so a code is still owed at DE_END. -/
theorem shortStreamEndsTruncated : Obligations.ShortStreamEndsTruncated := by
  intro s xs m herr hvalid hchecked hcodes hlen hm
  obtain ⟨hnone, ⟨htable, htableValid⟩, pad, hbits, hpad⟩ := encodeStream_stream herr hvalid hcodes
  have hstream : ((encodeStream xs s).1.take m).flatMap byteBits ++ ((encodeStream xs s).1.drop m).flatMap byteBits =
      (encodeStream xs s).2.table.bitstream xs ++ pad := by
    rw [htable, ← List.flatMap_append, List.take_append_drop, hbits]
  obtain ⟨rest, u, -, hreached, hend⟩ := decodeStream_along hnone (htableValid.trans hvalid)
    (fun _ => htable ▸ hchecked hvalid) (htable ▸ hcodes) hlen hstream
  dsimp only
  rw [hend]
  refine hreached.deEnd_before_end ?_
  rw [length_flatMap_byteBits, List.length_drop]
  omega

end Sys2Proof.Proofs
end

section
/-! The return from an error (R122, R257): after a cause without abort effects (R255) CLR_ERR undoes the refusal. -/

namespace Sys2Proof.Proofs

open Sys2Proof Sys2Proof.Machine Sys2Proof.Laws

/-- R122, R257: CLR_ERR undoes a write of ERRCAUSE alone. -/
theorem exec_clrErr_refused {s : State} (herr : s.errcause = .noError) (e : ErrCause) :
    exec .clrErr { s with errcause := e } = .next s :=
  congrArg Host.Outcome.next (show { s with errcause := .noError } = s by rw [← herr])

/-- Settles O24: the entry of each of the three causes in R255 is the write of ERRCAUSE alone (R254). -/
theorem refusedCommandLeavesNoTrace : Obligations.RefusedCommandLeavesNoTrace := by
  intro i s t herr h hcause
  cases exec_errorEntry herr h with
  | refused => exact exec_clrErr_refused herr _
  | noneRaised hnone => simp [hnone] at hcause
  | missingCode | invalidTable | truncated | candOverflow => simp [afterLoop] at hcause

end Sys2Proof.Proofs
end

section
/-! The empty input (R266): the table of any built tree is valid, so an encode session and a decode session open and close
with nothing in their FIFOs. -/

namespace Sys2Proof.Proofs

open Sys2Proof Sys2Proof.Machine Sys2Proof.Laws

variable {s : State}

/-- R182: the table of the built tree passes the validity check. -/
theorem buildTree_codes_valid (freq : Arr Word 256) : (buildTree freq).codes.valid = true := by
  obtain ⟨codes, hcodes, -⟩ := buildTree_codes freq
  exact valid_of_prefixFree hcodes.prefixFree

/-- R150, R170: TB_BUILD and CA_ASSIGN end with a validated table and no error. -/
theorem Ready.performAll_assign_valid (h : Ready s) :
    performAll [command .tbBuild, command .caAssign] s =
      { s with busy := false, tree := buildTree s.fc.freq, table := (buildTree s.fc.freq).codes, tableValid := true } := by
  rw [h.performAll_assign, validateTable_of_valid _ (buildTree_codes_valid s.fc.freq)]

/-- R200, R202: a session without EN_SYM leaves the packer as reset does. -/
theorem performAll_emptySession (herr : s.errcause = .noError) (hvalid : s.tableValid = true) :
    performAll [command .enStart, command .enFlush] s =
      { s with busy := false, packer := { active := false, acc := 0, accLen := 0, pkq := [] } } := by
  change runCommand .enFlush (runCommand .enStart s) = _
  rw [runCommand_of_exec (exec_enStart (s := { s with busy := true }) herr hvalid)]
  exact runCommand_of_exec (s := { s with busy := false, packer := { active := true, acc := 0, accLen := 0, pkq := [] } })
    (exec_enFlush herr rfl fun h => h.1 rfl)

/-- The encode sequence of the empty input, command by command (R266). -/
theorem performAll_encodeEmpty (herr : s.errcause = .noError) (hidle : s.sessionActive = false) :
    performAll [command .fcClear, command .tbBuild, command .caAssign, command .enStart, command .enFlush] s =
      { s with
        busy := false, fc := { freq := Arr.replicate 256 0, total := 0 }, tree := buildTree (Arr.replicate 256 0)
        table := (buildTree (Arr.replicate 256 0)).codes, tableValid := true
        packer := { active := false, acc := 0, accLen := 0, pkq := [] } } := by
  change performAll ([command .tbBuild, command .caAssign] ++ [command .enStart, command .enFlush])
    (runCommand .fcClear s) = _
  rw [performAll_append, (ready_fcClear herr hidle).performAll_assign_valid, runCommand_fcClear herr]
  exact performAll_emptySession herr rfl

/-- SETARG 0 and DE_START (R220): a decode of 0 symbols is DONE at once. -/
theorem performAll_startEmptyDecode (herr : s.errcause = .noError) (hvalid : s.tableValid = true) :
    performAll [setArg 0, command .deStart] s =
      { s with
        busy := false, arg := 0
        unpacker := { dstate := .done, cand := 0, candLen := 0, decCount := 0, decTarget := 0, dkq := [] } } := by
  change runCommand .deStart { s with arg := 0 } = _
  exact runCommand_of_exec (s := { s with arg := 0 }) (exec_deStart herr hvalid)

/-- R222: DE_END in DONE changes nothing. -/
theorem performAll_deEnd_done (herr : s.errcause = .noError) (hbusy : s.busy = false) (hdone : s.unpacker.dstate = .done) :
    performAll [command .deEnd] s = s := by
  refine (runCommand_of_exec (exec_deEnd_done (s := { s with busy := true }) herr hdone)).trans ?_
  rw [← hbusy]

/-- Settles O55: the encode sequence ends with a validated table, under which the decode of 0 symbols is DONE at once. -/
theorem emptyInputRaisesNoError : Obligations.EmptyInputRaisesNoError := by
  intro s herr hidle t u
  have ht : t = _ := performAll_encodeEmpty herr hidle
  have hnoError : t.errcause = .noError := by rw [ht]; exact herr
  have hu : u = _ := performAll_startEmptyDecode hnoError (by rw [ht])
  have hdone : u.unpacker.dstate = .done := by rw [hu]
  have hnoError' : u.errcause = .noError := by rw [hu]; exact hnoError
  exact ⟨hnoError, by rw [ht], by rw [ht], by rw [ht], hdone, by rw [hu],
    performAll_deEnd_done hnoError' (by rw [hu]) hdone, hnoError'⟩

end Sys2Proof.Proofs
end

section
/-! The values of the registers after reset (R282). -/

namespace Sys2Proof.Proofs

open Sys2Proof Sys2Proof.Machine Sys2Proof.Laws

/-- R24: ID is a constant, whatever the state. -/
theorem readReg_id (s : State) : readReg 0x00 s = (0x48554601#32, s) := rfl

/-- R282: every field of the coded registers is 0 after reset (R27, R28, R35 to R37), none of which shows the FIFO depths. -/
theorem codedRegisters_resetWith (c : Config) :
    (State.resetWith c).status = 0 ∧ (State.resetWith c).errcauseWord = 0 ∧ (State.resetWith c).encInfo = 0 ∧
    (State.resetWith c).decInfo = 0 ∧ (State.resetWith c).treeInfo = 0 := by
  change State.reset.status = 0 ∧ State.reset.errcauseWord = 0 ∧ State.reset.encInfo = 0 ∧ State.reset.decInfo = 0 ∧
    State.reset.treeInfo = 0
  decide

/-- R282: after reset every register but ID reads 0, and no read changes the state: the FIFOs behind PK_OUT and DK_OUT are
empty (R30, R31). -/
theorem readReg_resetWith {off : Offset} (c : Config) (hid : off ≠ 0x00) :
    readReg off (State.resetWith c) = (0, State.resetWith c) := by
  obtain ⟨hstatus, herrcause, henc, hdec, htree⟩ := codedRegisters_resetWith c
  unfold readReg
  split
  case h_1 h => exact absurd (BitVec.eq_of_toNat_eq h) hid
  case h_4 => rw [hstatus]
  case h_5 => rw [herrcause]
  case h_7 => exact popPk_nil rfl
  case h_8 => exact popDk_nil rfl
  case h_12 => rw [henc]
  case h_13 => rw [hdec]
  case h_14 => rw [htree]
  all_goals rfl

/-- Settles O18: ID is a constant, and every other register shows elements that reset clears. -/
theorem registersAfterReset : Obligations.RegistersAfterReset := by
  intro c off
  by_cases hid : off = 0x00
  · rw [hid, readReg_id, if_pos rfl]
    exact ⟨rfl, rfl⟩
  · rw [readReg_resetWith c hid, if_neg hid]
    exact ⟨rfl, rfl⟩

end Sys2Proof.Proofs
end

section
/-! Drained FIFOs (R289): an empty FIFO of any legal depth has room for what one command can queue, so EN_SYM, EN_FLUSH and
DE_BYTE pass their room checks. -/

namespace Sys2Proof.Proofs

open Sys2Proof Sys2Proof.Machine Sys2Proof.Laws

variable {s : State}

/-! ### The room in an empty FIFO -/

/-- R6, R201: at most 7 pending bits and a code of at most 255 bits complete 32 bytes, and PK_DEPTH is at least 32. -/
theorem enSym_room_of_drained (hdrained : s.packer.pkq = []) (x : Symbol) :
    (s.packer.accLen.toNat + (s.entryOf x).len.toNat) / 8 ≤ s.config.pkDepth.val - s.packer.pkq.length := by
  have hacc := s.packer.accLen.isLt
  have hlen := (s.entryOf x).len.isLt
  have hdepth := s.config.pkDepth.property
  rw [hdrained, List.length_nil]
  omega

/-- R6, R202: an empty PKQ is not full. -/
theorem enFlush_room_of_drained (hdrained : s.packer.pkq = []) :
    ¬ (s.packer.accLen ≠ 0 ∧ s.packer.pkq.length = s.config.pkDepth.val) := by
  have hdepth := s.config.pkDepth.property
  rw [hdrained, List.length_nil]
  omega

/-- R6, R221: DE_BYTE asks for 8 free entries, and DK_DEPTH is at least 8. -/
theorem deByte_room_of_drained (hdrained : s.unpacker.dkq = []) :
    ¬ s.config.dkDepth.val - s.unpacker.dkq.length < 8 := by
  have hdepth := s.config.dkDepth.property
  rw [hdrained, List.length_nil]
  omega

/-! ### The commands -/

theorem exec_enSym_of_drained (herr : s.errcause = .noError) (hdrained : s.packer.pkq = []) (x : Symbol) :
    ∃ t, exec (.enSym x) s = .next t ∧ t.errcause ≠ .fifoOverflow := by
  cases hactive : s.packer.active with
  | false => exact ⟨_, exec_enSym_closed herr hactive, by simp⟩
  | true =>
    by_cases hlen : (s.entryOf x).len = 0
    · exact ⟨_, exec_enSym_missing herr hactive hlen, by simp⟩
    · have hcode : s.table.codeOf x ≠ [] := mt (code_eq_nil_iff _).mp hlen
      exact ⟨_, exec_enSym herr hactive hcode (enSym_room_of_drained hdrained x), by simp [herr]⟩

theorem exec_enFlush_of_drained (herr : s.errcause = .noError) (hdrained : s.packer.pkq = []) :
    ∃ t, exec .enFlush s = .next t ∧ t.errcause ≠ .fifoOverflow := by
  cases hactive : s.packer.active with
  | false => exact ⟨_, exec_enFlush_closed herr hactive, by simp⟩
  | true => exact ⟨_, exec_enFlush herr hactive (enFlush_room_of_drained hdrained), by simp [herr]⟩

/-- The loop of DE_BYTE raises at most CAND_OVERFLOW (R221, R223). -/
theorem afterLoop_errcause_ne_fifoOverflow (herr : s.errcause = .noError) (r : BitStep) :
    (afterLoop s r).errcause ≠ .fifoOverflow := by
  cases r <;> simp [afterLoop, herr]

theorem exec_deByte_of_drained (herr : s.errcause = .noError) (hdrained : s.unpacker.dkq = []) (byte : Byte) :
    ∃ t, exec (.deByte byte) s = .next t ∧ t.errcause ≠ .fifoOverflow := by
  by_cases hdone : s.unpacker.dstate = .done
  · exact ⟨_, exec_deByte_done herr hdone byte, by simp [herr]⟩
  · by_cases hopen : s.unpacker.dstate = .accumulating
    · exact ⟨_, exec_deByte_open herr hopen (deByte_room_of_drained hdrained) byte,
        afterLoop_errcause_ne_fifoOverflow herr _⟩
    · exact ⟨_, exec_deByte_closed herr hdone hopen byte, by simp⟩

/-- Settles O56: each command either ends before its room check or passes it, its FIFO being empty. -/
theorem drainedFifosNeverOverflow : Obligations.DrainedFifosNeverOverflow := fun _ x herr =>
  ⟨fun hpkq => ⟨exec_enSym_of_drained herr hpkq x, exec_enFlush_of_drained herr hpkq⟩,
    fun hdkq => exec_deByte_of_drained herr hdkq x⟩

end Sys2Proof.Proofs
end
